-- ==== Sys2Proof/Word.lean ====
section
/-! DEFINITION. The word types of the block: every register, job word, result word and data bus value is a
32-bit unsigned value with bit 0 least significant (R8, R74); a half-period field is 8 bits (R6). -/

namespace Sys2Proof

/-- `XLEN` = 32 bits (R6). -/
abbrev Word := BitVec 32

/-- A half-period field of `TIMING`, `THW` = 8 bits (R6); also one byte of the model's byte container (log 5). -/
abbrev Byte := BitVec 8

/-- The 4-bit command of a host transaction (R100), and the 4-bit selector of an engine row. -/
abbrev Nibble := BitVec 4

end Sys2Proof
end

