-- ==== Sys2Proof/Config.lean ====
section
/-! DEFINITION. The implementation parameters of R6, the fixed ones with their value, the OPEN ones as constants
with no body, and the one free value of the model: the level of the data line in a cycle that no schedule names. -/

namespace Sys2Proof

/-- Capacity of the job FIFO in words, `TX_DEPTH` (R6). -/
def Config.txDepth : Nat := 4

/-- Capacity of the result FIFO in words, `RX_DEPTH` (R6). -/
def Config.rxDepth : Nat := 4

/-- The result word of a ready-wait timeout, `SENTINEL` (R6): all ones. -/
def Config.sentinel : Word := 0xFFFFFFFF#32

/-- The frequency of `clk` in Hz, `F_CLK`, OPEN (R6, D2; log 13). No block rule reads it (R348). -/
opaque Config.fClk : Nat

/-- The base address of the register window divided by 32 (R6: `BASE_ADDR` is a multiple of 32), OPEN (log 13). -/
opaque Config.baseIndex : Nat

/-- The host address of register offset 0, `BASE_ADDR` (R6, R70). -/
def Config.baseAddr : Nat := 32 * Config.baseIndex

/-- The host interrupt input that the `irq` port is wired to, `IRQ_LINE`, OPEN (R6, R308; log 13). -/
opaque Config.irqLine : Nat

/-- Cycles from a rising edge of the clock line until the chip's data line shows the next bit, `D_CHIP`, OPEN
(R6, D33; log 13). Read by hazard predicates only. -/
opaque Config.dChip : Nat

/-- FREE VALUE: what the data line carries in cycle `n` when the environment's schedule leaves it free: "`pin` is a
free input of every cycle: the spec places no law on it" (R143, I7, I8; log 2, log 3). -/
opaque Config.pinDraw : Nat → Bool

end Sys2Proof
end

