-- ==== Sys2Proof/Syntax.lean ====
section
/-! DEFINITION. The operations of the opcode table, one constructor per row: the sixteen host transactions
(format BUS, R102), the nine engine rows over `{ctrl_en, st}` (format FSM, R114), and the three units that step in
every cycle (format UNIT). -/

namespace Sys2Proof

/-- One row of the opcode table. A write carries its `wdata` (R101); a read carries nothing, its `wdata` being
ignored (R100). The row ENG_STOPPED is `0xxx`: it carries the three state-code bits the row leaves open. -/
inductive Instr where
  | rdCtrl
  | wrCtrl (wdata : Word)
  | rdStatus
  | wrStatus (wdata : Word)
  | rdTiming
  | wrTiming (wdata : Word)
  | rdTxf
  | wrTxf (wdata : Word)
  | rdRxf
  | wrRxf (wdata : Word)
  | rdRdy
  | wrRdy (wdata : Word)
  | rdIe
  | wrIe (wdata : Word)
  | rdRsvd
  | wrRsvd (wdata : Word)
  | engStopped (code : BitVec 3)
  | engIdle
  | engWait
  | engHigh
  | engLow
  | engPush
  | engRsvd5
  | engRsvd6
  | engRsvd7
  | syncStep
  | rduStep
  | pinMux
  deriving DecidableEq, Repr

end Sys2Proof
end

