-- ==== Sys2Proof/WellFormed.lean ====
section
/-! DEFINITION. Which operations of the table can ever be selected: every host transaction and every unit, and the
engine rows whose state code is one of the five of R114. -/

namespace Sys2Proof

/-- The codes of `st` that some state of the block has: 0 to 4; "Codes 5, 6 and 7 are reserved and never reached"
(R114). -/
def stateCodeReached (code : BitVec 3) : Bool := code.toNat ≤ 4

/-- An operation is well formed when no state code it is selected by is a reserved one (R114, R117: no `cmd` value is
illegal, so every host transaction is). -/
def Instr.wellFormed : Instr → Bool
  | .engStopped code => stateCodeReached code
  | .engRsvd5 => false
  | .engRsvd6 => false
  | .engRsvd7 => false
  | .rdCtrl | .wrCtrl _ | .rdStatus | .wrStatus _ | .rdTiming | .wrTiming _ | .rdTxf | .wrTxf _ => true
  | .rdRxf | .wrRxf _ | .rdRdy | .wrRdy _ | .rdIe | .wrIe _ | .rdRsvd | .wrRsvd _ => true
  | .engIdle | .engWait | .engHigh | .engLow | .engPush => true
  | .syncStep | .rduStep | .pinMux => true

end Sys2Proof
end

