-- ==== Sys2Proof/Decode.lean ====
section
/-! DEFINITION. The decoders: a host transaction from its command and data word (R100, R102), an engine row from the
selector `{ctrl_en, st}` (the FSM rows of the opcode table, R114), and the model's byte container of either (log 5);
then the encoders, from the same tables. -/

namespace Sys2Proof

/-- Why a byte string is no operation: raised by `decode` only, never by the machine, whose two selector spaces are
total (R117). Safe: it refuses strings of the model's own container (log 5). -/
inductive DecodeError where
  /-- The string ends before the operation's last byte. -/
  | truncated
  /-- The upper half of the first byte is no format of the container. -/
  | unknownFormat (tag : Nat)
  /-- The lower half of a UNIT byte is none of the three units. -/
  | unknownUnit (index : Nat)
  deriving DecidableEq, Repr

/-- The full decode of `cmd` (R102): every one of the sixteen values is an operation. -/
def decodeBus (cmd : Nibble) (wdata : Word) : Instr :=
  match cmd.toNat with
  | 0x0 => .rdCtrl
  | 0x1 => .wrCtrl wdata
  | 0x2 => .rdStatus
  | 0x3 => .wrStatus wdata
  | 0x4 => .rdTiming
  | 0x5 => .wrTiming wdata
  | 0x6 => .rdTxf
  | 0x7 => .wrTxf wdata
  | 0x8 => .rdRxf
  | 0x9 => .wrRxf wdata
  | 0xA => .rdRdy
  | 0xB => .wrRdy wdata
  | 0xC => .rdIe
  | 0xD => .wrIe wdata
  | 0xE => .rdRsvd
  | _ => .wrRsvd wdata

/-- The engine row that the selector `{ctrl_en, st}` picks (opcode table, format FSM): `0xxx` is ENG_STOPPED (R220),
`1000` to `1100` the five states (R221, R206, R223, R224, R228), `1101` to `1111` the reserved codes (R114). -/
def decodeSelector (sel : Nibble) : Instr :=
  if sel.getLsbD 3 then
    match (sel.extractLsb' 0 3).toNat with
    | 0 => .engIdle
    | 1 => .engWait
    | 2 => .engHigh
    | 3 => .engLow
    | 4 => .engPush
    | 5 => .engRsvd5
    | 6 => .engRsvd6
    | _ => .engRsvd7
  else .engStopped (sel.extractLsb' 0 3)

/-- The always-active units, in the order the container numbers them (log 5): the opcode table gives them no selector
bits. -/
def unitRows : List Instr := [.syncStep, .rduStep, .pinMux]

/-- A word from its four bytes, the least significant first (log 5: R74 gives the block no byte order). -/
def wordOfBytes (b0 b1 b2 b3 : Byte) : Word := b3 ++ b2 ++ b1 ++ b0

/-- The four bytes of a word, the least significant first (log 5). -/
def bytesOfWord (w : Word) : List Byte :=
  [w.extractLsb' 0 8, w.extractLsb' 8 8, w.extractLsb' 16 8, w.extractLsb' 24 8]

/-- The decoder of the byte container (log 5), total on byte strings: the first byte holds the format in its upper
half (0 BUS, 1 FSM, 2 UNIT) and the selector in its lower half; a BUS operation has four data bytes after it, read or
write alike (R100: all transactions have one length). -/
def decode : List Byte → Except DecodeError (Instr × List Byte)
  | [] => .error .truncated
  | b :: rest =>
    let tag := b.extractLsb' 4 4
    let sel := b.extractLsb' 0 4
    match tag.toNat with
    | 0 =>
      match rest with
      | b0 :: b1 :: b2 :: b3 :: rest' => .ok (decodeBus sel (wordOfBytes b0 b1 b2 b3), rest')
      | _ => .error .truncated
    | 1 => .ok (decodeSelector sel, rest)
    | 2 =>
      match unitRows[sel.toNat]? with
      | some i => .ok (i, rest)
      | none => .error (.unknownUnit sel.toNat)
    | t => .error (.unknownFormat t)

/-- The bytes of the first five places of `w`, bit 0 of `w` being bit 0 of the first byte. -/
def bytesOfTableWord (w : Nat) : List Byte :=
  [BitVec.ofNat 8 w, BitVec.ofNat 8 (w >>> 8), BitVec.ofNat 8 (w >>> 16), BitVec.ofNat 8 (w >>> 24), BitVec.ofNat 8 (w >>> 32)]

/-- The operation the decoder reads from the table's bits: bits 3 to 0 are the row's four bits, every bit above `nbits`
is 0. The table's BUS rows and FSM rows number the SAME four bits, so a bare four-bit word is read as the host
transaction (R102), the only one of the two that anything presents as a word (log 6). -/
def decodeTableWord (nbits w : Nat) : Option Instr :=
  match decode (bytesOfTableWord (w % 2 ^ nbits)) with
  | .ok (i, _) => some i
  | .error _ => none

/-- The command and data word of a host transaction (R102; R119: a read's `wdata` is written 0); none for a row that no
host presents. -/
def encodeBus : Instr → Option (Nibble × Word)
  | .rdCtrl => some (0x0#4, 0#32)
  | .wrCtrl v => some (0x1#4, v)
  | .rdStatus => some (0x2#4, 0#32)
  | .wrStatus v => some (0x3#4, v)
  | .rdTiming => some (0x4#4, 0#32)
  | .wrTiming v => some (0x5#4, v)
  | .rdTxf => some (0x6#4, 0#32)
  | .wrTxf v => some (0x7#4, v)
  | .rdRxf => some (0x8#4, 0#32)
  | .wrRxf v => some (0x9#4, v)
  | .rdRdy => some (0xA#4, 0#32)
  | .wrRdy v => some (0xB#4, v)
  | .rdIe => some (0xC#4, 0#32)
  | .wrIe v => some (0xD#4, v)
  | .rdRsvd => some (0xE#4, 0#32)
  | .wrRsvd v => some (0xF#4, v)
  | .engStopped _ | .engIdle | .engWait | .engHigh | .engLow | .engPush | .engRsvd5 | .engRsvd6 | .engRsvd7 => none
  | .syncStep | .rduStep | .pinMux => none

/-- The selector `{ctrl_en, st}` of an engine row (R114); none for a row the engine does not select. -/
def encodeSelector : Instr → Option Nibble
  | .engStopped code => some (0#1 ++ code)
  | .engIdle => some 0b1000#4
  | .engWait => some 0b1001#4
  | .engHigh => some 0b1010#4
  | .engLow => some 0b1011#4
  | .engPush => some 0b1100#4
  | .engRsvd5 => some 0b1101#4
  | .engRsvd6 => some 0b1110#4
  | .engRsvd7 => some 0b1111#4
  | .rdCtrl | .wrCtrl _ | .rdStatus | .wrStatus _ | .rdTiming | .wrTiming _ | .rdTxf | .wrTxf _ => none
  | .rdRxf | .wrRxf _ | .rdRdy | .wrRdy _ | .rdIe | .wrIe _ | .rdRsvd | .wrRsvd _ => none
  | .syncStep | .rduStep | .pinMux => none

/-- The container's number of a unit; none for the other rows (log 5). -/
def encodeUnit : Instr → Option Nibble
  | .syncStep => some 0#4
  | .rduStep => some 1#4
  | .pinMux => some 2#4
  | .engStopped _ | .engIdle | .engWait | .engHigh | .engLow | .engPush | .engRsvd5 | .engRsvd6 | .engRsvd7 => none
  | .rdCtrl | .wrCtrl _ | .rdStatus | .wrStatus _ | .rdTiming | .wrTiming _ | .rdTxf | .wrTxf _ => none
  | .rdRxf | .wrRxf _ | .rdRdy | .wrRdy _ | .rdIe | .wrIe _ | .rdRsvd | .wrRsvd _ => none

/-- The bytes of an operation in the container of `decode` (log 5). -/
def encode (i : Instr) : List Byte :=
  match encodeBus i with
  | some (cmd, w) => (0#4 ++ cmd) :: bytesOfWord w
  | none =>
    match encodeSelector i with
    | some sel => [1#4 ++ sel]
    | none => [2#4 ++ (encodeUnit i).getD 0#4]

/-- How many bytes an operation takes in the container: every transaction the same (R100). -/
def Instr.byteLength (i : Instr) : Nat :=
  match encodeBus i with
  | some _ => 5
  | none => 1

end Sys2Proof
end

