-- ==== Sys2Proof/Machine/State.lean ====
section
/-! DEFINITION. The machine's state as plain data: the block's registers (R39 to R52), its ports of the last cycle
(R30), the host with the rest of its program (R140, R151, 44_result_decode.md), the environment's schedule (R143),
and the two helper records in which the proposals of one cycle are gathered (R9, R144; log 1). -/

namespace Sys2Proof.Machine

/-! ### The block -/

/-- The five states of the engine (R38, R47, R114). -/
inductive EngState where
  | idle
  | wait
  | high
  | low
  | push
  deriving DecidableEq, Repr

/-- Every storage element of the block, R39 to R52, under the spec's names. -/
@[ext]
structure Regs where
  /-- `ctrl_en`: the engine runs and owns the clock line (R39). -/
  ctrlEn : Bool
  /-- `ctrl_waitrdy`: each job begins with the engine's own ready poll (R39). -/
  ctrlWaitrdy : Bool
  /-- `ctrl_scksw`: the clock-line level while `ctrl_en = 0` (R39). -/
  ctrlScksw : Bool
  /-- `t_hi`: the high half-period lasts `t_hi + 1` cycles (R40). -/
  tHi : Byte
  /-- `t_lo`: the low half-period lasts `t_lo + 1` cycles (R40). -/
  tLo : Byte
  /-- `ie_rdy`, `ie_rxne`, `ie_to`: the interrupt enables (R41). -/
  ieRdy : Bool
  ieRxne : Bool
  ieTo : Bool
  /-- `to_flag`: a ready-wait timeout happened (R42). -/
  toFlag : Bool
  /-- `txovf_flag`: a job word was dropped (R42). -/
  txovfFlag : Bool
  /-- `rdu_arm`, `rdu_flag`, `rdu_prev`: the ready detector (R43). -/
  rduArm : Bool
  rduFlag : Bool
  rduPrev : Bool
  /-- `sync1`, `sync2`: the synchroniser; `sync2` is `dout_s` (R44). -/
  sync1 : Bool
  sync2 : Bool
  /-- `txq`: job words, oldest first (R45). -/
  txq : List Word
  /-- `rxq`: result words, oldest first (R46). -/
  rxq : List Word
  /-- `st`: the engine's state (R47). -/
  st : EngState
  /-- `wcnt`: the wait counter (R48). -/
  wcnt : Word
  /-- `pcnt`: pulses remaining after the current one (R49). -/
  pcnt : Word
  /-- `acc`: the accumulator, filled MSB first (R50). -/
  acc : Word
  /-- `tcnt`: cycles remaining in the half-period (R51). -/
  tcnt : Byte
  /-- `sck_eng`: the clock-line level the engine drives (R52). -/
  sckEng : Bool
  deriving DecidableEq, Repr

/-- The reset state of R54. -/
def Regs.reset : Regs where
  ctrlEn := false
  ctrlWaitrdy := false
  ctrlScksw := false
  tHi := 1#8
  tLo := 1#8
  ieRdy := false
  ieRxne := false
  ieTo := false
  toFlag := false
  txovfFlag := false
  rduArm := false
  rduFlag := false
  rduPrev := true
  sync1 := true
  sync2 := true
  txq := []
  rxq := []
  st := .idle
  wcnt := 0#32
  pcnt := 0#32
  acc := 0#32
  tcnt := 0#8
  sckEng := false

/-- The requests of R144 items 2 to 4, gathered in one cycle and combined at its end by R145 to R148. -/
structure Requests where
  /-- The engine takes two words from `txq`. -/
  engPop2 : Bool
  /-- The engine appends a word to `rxq`. -/
  engPush : Option Word
  /-- The engine sets `to_flag`. -/
  engTo : Bool
  /-- The host appends a word to `txq`. -/
  hPush : Option Word
  /-- The host removes the head of `rxq`. -/
  hPop : Bool
  /-- The host empties `txq`. -/
  hFlushTx : Bool
  /-- The host empties `rxq`. -/
  hFlushRx : Bool
  /-- The host writes 1 to `STATUS.TO`. -/
  hW1cTo : Bool
  /-- The host writes 1 to `STATUS.TXOVF`. -/
  hW1cTxovf : Bool
  /-- The host's ready-detector commands. -/
  hArm : Bool
  hDisarm : Bool
  hClr : Bool
  /-- The armed detector sees a falling edge (R202). -/
  capture : Bool
  deriving DecidableEq, Repr

/-- No request: what a cycle starts from (R144). -/
def Requests.empty : Requests where
  engPop2 := false
  engPush := none
  engTo := false
  hPush := none
  hPop := false
  hFlushTx := false
  hFlushRx := false
  hW1cTo := false
  hW1cTxovf := false
  hArm := false
  hDisarm := false
  hClr := false
  capture := false

/-- The block's input ports in one cycle (R30, R141); `pin` is the value on the `dout` port. -/
structure Inputs where
  rstN : Bool
  pin : Bool
  req : Bool
  we : Bool
  off : BitVec 3
  wdata : Word
  deriving DecidableEq, Repr

/-- The block's output ports in one cycle (R30, R142). -/
structure Outputs where
  sck : Bool
  irq : Bool
  ack : Bool
  rdata : Word
  deriving DecidableEq, Repr

/-! ### The host -/

/-- The driver's `mode`, enumerated 1, 2, 3 (R270, R271). -/
inductive Mode where
  | m1
  | m2
  | m3
  deriving DecidableEq, Repr

/-- The three readout arrangements (R3, C5) with the operands their reads take: `BUDGET_CYCLES` of R277, and the
padding `gh` and sampling delay `gs` of R279. -/
inductive Backend where
  | bitBang (gh gs : Nat)
  | selfContained (budget : Word)
  | hybrid
  deriving DecidableEq, Repr

/-- The pseudo-instructions of R120. -/
inductive Pseudo where
  | start
  | stop
  | submit (budget pulses : Word)
  | getres
  | arm
  | disarm
  | clrrdy
  | sckhi
  | scklo
  | flush
  | clrto
  deriving DecidableEq, Repr

/-- How a driver read ends: the signed conversion (R274) or the host-side error `SensorTimeout` (R273, R283). -/
inductive ReadResult where
  | value (v : Int)
  | sensorTimeout
  deriving DecidableEq, Repr

/-- One item of the host's program. The first group presents a transaction or idles (R119, R10); the second is the
driver's calls (44_result_decode.md); the third is the steps a call unfolds into, between its transactions. -/
inductive HostOp where
  /-- One transaction, `rd <REG>` or `wr <REG>, v` as `cmd:wdata` (R119). -/
  | bus (cmd : Nibble) (wdata : Word)
  /-- `MemRead`/`MemWrite` at a host byte address, of `size` bytes (R10, R70, R72, R73). -/
  | mem (we : Bool) (addr size : Nat) (wdata : Word)
  /-- `idle n`: `n` cycles with `req = 0` (R119). -/
  | idle (n : Nat)
  | pseudo (p : Pseudo)
  /-- Construction with a backend and an initial mode (R271, R332). -/
  | construct (b : Backend) (mode : Int)
  /-- `set_mode(m)` (R270). -/
  | setMode (mode : Int)
  /-- `read()` (R277 to R279). -/
  | read
  | powerDown
  | powerUp
  /-- The transactions of one `read()`, inside a call. -/
  | readBody
  /-- After `rd RDY` in `ReadyWaitSW`, with `left` polls still allowed (R209). -/
  | readyTest (left : Nat)
  /-- `raise SensorTimeout`: the rest of the call is dropped (R283). -/
  | raiseTimeout
  /-- The sentinel test on the last word read (R273). -/
  | sentinelTest
  /-- `Decode` of the last word read (R274). -/
  | decodeWord
  /-- `acc = 0` of the bit-bang loop (R279). -/
  | clearAcc
  /-- The bit-bang loop with `left` pulses to go (R279). -/
  | pulses (left : Nat)
  /-- `acc = (acc << 1) | DOUT` from the last `rd STATUS` (R279). -/
  | shiftIn
  /-- `Decode` of the bit-bang accumulator (R279). -/
  | decodeAcc
  /-- Interrupts disabled, their state saved; and restored (R279). -/
  | maskInts
  | restoreInts
  /-- A warm-up read's result is discarded (R270). -/
  | discard
  /-- The end of a driver call: takes no cycle. -/
  | ret
  deriving DecidableEq, Repr

/-- The host: its driver's variables and the rest of its program, the item in progress first (R140, R151). -/
structure HostAgent where
  mode : Mode
  backend : Backend
  /-- The host's copy of the last value it wrote to CTRL bits 2:0 (R120). -/
  ctrlv : BitVec 3
  /-- The word its last read transaction returned. -/
  rdata : Word
  /-- The bit-bang accumulator (R279). -/
  acc : Word
  /-- The host's interrupt enable, and the copy saved while a pulse pair is masked (R279). -/
  ints : Bool
  savedInts : Bool
  /-- How the last driver read ended. -/
  result : Option ReadResult
  prog : List HostOp
  deriving DecidableEq, Repr

/-! ### The environment -/

/-- What the schedule says of the data line in one cycle: a level, or nothing, which includes a change at the sampling
edge (R143, R333, I7, I8; log 2, log 3). -/
inductive DataLine where
  | level (b : Bool)
  | free
  deriving DecidableEq, Repr

/-- The inputs of coming cycles, next first: the level of `rst_n` (none left: high; log 4) and of the data line (none
left: free). -/
structure Env where
  rst : List Bool
  data : List DataLine
  deriving DecidableEq, Repr

end Sys2Proof.Machine

namespace Sys2Proof.Machine

/-- The whole machine. Between cycles `nxt` equals `regs` and `req` is empty (log 1); `inp` and `out` show the ports of
the cycle just stepped. -/
structure State where
  /-- The block's registers at the start of the cycle: `s` of R9. -/
  regs : Regs
  /-- The registers of the next cycle being formed: `s'` of R9 (model's own, log 1). -/
  nxt : Regs
  /-- The requests being gathered (model's own, log 1). -/
  req : Requests
  inp : Inputs
  out : Outputs
  host : HostAgent
  env : Env
  /-- Numbers the cycles for the free pin draws (model's own, log 2). -/
  cycle : Nat
  deriving DecidableEq, Repr

/-- Input ports before the first cycle (log 16). -/
def Inputs.reset : Inputs where
  rstN := true
  pin := true
  req := false
  we := false
  off := 0#3
  wdata := 0#32

/-- Output ports after reset: `sck = 0`, `irq = 0` (R331), no transaction completed (R32). -/
def Outputs.reset : Outputs where
  sck := false
  irq := false
  ack := false
  rdata := 0#32

/-- The host before it has done anything (log 10). -/
def HostAgent.reset : HostAgent where
  mode := .m1
  backend := .bitBang 0 0
  ctrlv := 0#3
  rdata := 0#32
  acc := 0#32
  ints := true
  savedInts := true
  result := none
  prog := []

/-- No level scheduled: `rst_n` stays high (log 4) and the data line is free (log 2). -/
def Env.reset : Env where
  rst := []
  data := []

/-- The machine right after reset (R54, R330, R331). -/
def State.reset : State where
  regs := Regs.reset
  nxt := Regs.reset
  req := Requests.empty
  inp := Inputs.reset
  out := Outputs.reset
  host := HostAgent.reset
  env := Env.reset
  cycle := 0

/-- The reasons the block stops with a fault: there are none. "The block has no trap, no exception entry and no
exception return. It never stops the host's program" (R300; log 17). -/
inductive Fault where
  deriving DecidableEq, Repr

/-- The reasons a step has no meaning. -/
inductive Refusal where
  /-- An operation without a meaning in this model: raised by no arm of `exec`. Safe. -/
  | notModelled (mnemonic : String)
  /-- The host accesses the window with another width than 32 bits: raised by `HostOp.move`; "a model refuses it"
  (R72, I18). Safe. -/
  | narrowAccess
  /-- The host accesses the window at a misaligned address: raised by `HostOp.move`; "a model refuses it" (R73, I18).
  Safe. -/
  | misalignedAccess
  /-- The host accesses an address outside the window, which is no transaction of this block: raised by `HostOp.move`
  (R70; log 8). Safe. -/
  | outsideWindow
  /-- A construction whose initial mode is not in 1, 2, 3: raised by `HostOp.move`; "a model refuses a construction"
  (R271, I4). Safe. -/
  | invalidInitialMode
  /-- An engine row with a reserved state code: raised by the meanings of ENG_RSVD5, ENG_RSVD6 and ENG_RSVD7; "reserved
  and never reached" (R114, I6; log 7). Safe. -/
  | reservedEngineState (code : Nat)
  deriving DecidableEq, Repr

end Sys2Proof.Machine
end

