-- ==== Sys2Proof/Machine/Operands.lean ====
section
/-! DEFINITION. The operand forms: the field layouts of the eight registers, read (R103 to R110, R116) and written
(R101), and the state code of the engine (R114). -/

namespace Sys2Proof.Machine

/-- One bit of a data word, bit 0 the least significant (R8). -/
def bit (w : Word) (k : Nat) : Bool := w.getLsbD k

/-- One bit as a field (R8). -/
def bit1 (b : Bool) : BitVec 1 := BitVec.ofBool b

/-- The eight-bit field of `w` whose lowest bit is `lo` (R8). -/
def byteField (w : Word) (lo : Nat) : Byte := w.extractLsb' lo 8

/-- The codes of `st` (R114). -/
def EngState.code : EngState → BitVec 3
  | .idle => 0#3
  | .wait => 1#3
  | .high => 2#3
  | .low => 3#3
  | .push => 4#3

/-- The selector `{ctrl_en, st}` of the engine rows (R220, opcode table). -/
def Regs.selector (r : Regs) : Nibble := bit1 r.ctrlEn ++ r.st.code

/-- The value of the `sck` port: the engine's level while it runs, the host's otherwise (R34, R230). -/
def Regs.sckPin (r : Regs) : Bool := if r.ctrlEn then r.sckEng else r.ctrlScksw

/-- `busy = (st != IDLE)` (R53). -/
def Regs.busy (r : Regs) : Bool := r.st ≠ .idle

/-- The level of a FIFO as a four-bit field (R104). -/
def levelField (q : List Word) : BitVec 4 := BitVec.ofNat 4 q.length

/-- The `CTRL` word: the flush bits and the reserved bits read 0 (R103, R160). -/
def Regs.ctrlWord (r : Regs) : Word := 0#29 ++ bit1 r.ctrlScksw ++ bit1 r.ctrlWaitrdy ++ bit1 r.ctrlEn

/-- The `STATUS` word, assembled from the state (R104, R162). -/
def Regs.statusWord (r : Regs) : Word :=
  0#12 ++ bit1 (r.rxq.length ≠ 0) ++ bit1 r.rduFlag ++ bit1 r.txovfFlag ++ bit1 r.toFlag ++ 0#2
    ++ bit1 r.sckPin ++ bit1 r.sync2 ++ levelField r.rxq ++ levelField r.txq ++ bit1 r.busy ++ r.st.code

/-- The `TIMING` word (R105, R164). -/
def Regs.timingWord (r : Regs) : Word := 0#16 ++ r.tLo ++ r.tHi

/-- The `RDY` word: ARMED and FLAG (R108, R170). -/
def Regs.rdyWord (r : Regs) : Word := 0#30 ++ bit1 r.rduFlag ++ bit1 r.rduArm

/-- The `IE` word (R109, R172). -/
def Regs.ieWord (r : Regs) : Word := 0#29 ++ bit1 r.ieTo ++ bit1 r.ieRxne ++ bit1 r.ieRdy

/-- `ReadValue(s, off)` of R142: the word a completing read of offset `off` returns; for `RXF` the oldest result word
(R168), for `TXF` and the reserved offset 0 (R166, R174). -/
def Regs.readValue (r : Regs) (off : BitVec 3) : Word :=
  match off.toNat with
  | 0 => r.ctrlWord
  | 1 => r.statusWord
  | 2 => r.timingWord
  | 4 => r.rxq.headD 0#32
  | 5 => r.rdyWord
  | 6 => r.ieWord
  | _ => 0#32

/-- The fields a write of `v` to `CTRL` stores (R161). -/
def Regs.withCtrl (r : Regs) (v : Word) : Regs :=
  { r with ctrlEn := bit v 0, ctrlWaitrdy := bit v 1, ctrlScksw := bit v 2 }

/-- The fields a write of `v` to `TIMING` stores (R165). -/
def Regs.withTiming (r : Regs) (v : Word) : Regs := { r with tHi := byteField v 0, tLo := byteField v 8 }

/-- The fields a write of `v` to `IE` stores (R173). -/
def Regs.withIe (r : Regs) (v : Word) : Regs := { r with ieRdy := bit v 0, ieRxne := bit v 1, ieTo := bit v 2 }

/-- The FIFO commands in a write of `v` to `CTRL` (R103, R161). -/
def Requests.withCtrl (q : Requests) (v : Word) : Requests := { q with hFlushTx := bit v 3, hFlushRx := bit v 4 }

/-- The flag clears in a write of `v` to `STATUS` (R104, R163). -/
def Requests.withStatus (q : Requests) (v : Word) : Requests := { q with hW1cTo := bit v 16, hW1cTxovf := bit v 17 }

/-- The job word in a write of `v` to `TXF` (R106, R167). -/
def Requests.withTxf (q : Requests) (v : Word) : Requests := { q with hPush := some v }

/-- The detector commands in a write of `v` to `RDY` (R108, R171). -/
def Requests.withRdy (q : Requests) (v : Word) : Requests :=
  { q with hArm := bit v 0, hDisarm := bit v 1, hClr := bit v 2 }

/-- The accumulator after one more sample: `w32((acc << 1) | bit)` (R226). -/
def shiftIn (acc : Word) (b : Bool) : Word := (acc <<< 1) ||| BitVec.setWidth 32 (bit1 b)

end Sys2Proof.Machine
end

