-- ==== Sys2Proof/Machine/Flags.lean ====
section
/-! DEFINITION. Every flag and line the block computes: the falling edge and its capture (R201, R202), the sticky
flags (R147), the ready detector's combination (R148), and the interrupt line (R308). -/

namespace Sys2Proof.Machine

/-- `fall`: the synchronised data line was 1 in the previous cycle and is 0 in this one (R201). -/
def Regs.fall (r : Regs) : Bool := r.rduPrev && !r.sync2

/-- `capture`: an armed detector sees a falling edge (R202). -/
def Regs.captured (r : Regs) : Bool := r.rduArm && r.fall

/-- `txovf_set`: a job word is pushed, not flushed, into a FIFO that was full before the cycle (R145, R303). -/
def Requests.txovfSet (q : Requests) (r : Regs) : Bool :=
  !q.hFlushTx && q.hPush.isSome && decide (Config.txDepth ≤ r.txq.length)

/-- `to_flag` of the next cycle: a set wins over a clear (R147). -/
def Requests.toFlagNext (q : Requests) (r : Regs) : Bool := q.engTo || (r.toFlag && !q.hW1cTo)

/-- `txovf_flag` of the next cycle: a set wins over a clear (R147). -/
def Requests.txovfFlagNext (q : Requests) (r : Regs) : Bool := q.txovfSet r || (r.txovfFlag && !q.hW1cTxovf)

/-- `armcmd = h_arm & !h_disarm` (R148). -/
def Requests.armCmd (q : Requests) : Bool := q.hArm && !q.hDisarm

/-- `rdu_arm` of the next cycle (R148). -/
def Requests.rduArmNext (q : Requests) (r : Regs) : Bool :=
  if q.hDisarm then false else if q.armCmd then true else if q.capture then false else r.rduArm

/-- `rdu_flag` of the next cycle (R148). -/
def Requests.rduFlagNext (q : Requests) (r : Regs) : Bool :=
  if q.armCmd then false else if q.capture then true else if q.hClr then false else r.rduFlag

/-- The interrupt line, a level computed from the pre-cycle state (R36, R308). -/
def Regs.irqLevel (r : Regs) : Bool :=
  (r.rduFlag && r.ieRdy) || (decide (r.rxq.length ≠ 0) && r.ieRxne) || (r.toFlag && r.ieTo)

/-- The level the host sees on its interrupt input `line` from this block: the platform wires `irq` to `IRQ_LINE`
(R308, R315). -/
def State.interruptInput (s : State) (line : Nat) : Bool := decide (line = Config.irqLine) && s.out.irq

end Sys2Proof.Machine
end

