-- ==== Sys2Proof/Machine/Ops.lean ====
section
/-! DEFINITION. The shared operations: the four updates a row's meaning may make, a transaction that completes or is
held (R142, R149), and the end of the cycle, which combines what the rows proposed (R145 to R148) or resets (R150).
The spec gives the block no trap and no exception entry or return (R300), so there is no operation for one. -/

namespace Sys2Proof.Machine

/-- Replace the registers being formed for the next cycle. -/
def State.setNxt (s : State) (r : Regs) : State := { s with nxt := r }

/-- Replace the requests gathered so far. -/
def State.setReq (s : State) (q : Requests) : State := { s with req := q }

/-- Drive the clock line (R34). -/
def State.setSck (s : State) (b : Bool) : State := { s with out := { s.out with sck := b } }

/-- Answer the transaction of this cycle on `ack` and `rdata` (R142). -/
def State.setBus (s : State) (ack : Bool) (rdata : Word) : State := { s with out := { s.out with ack := ack, rdata := rdata } }

/-- A read that returns `v`: it completes unless the block is in reset, and `rdata` is 0 where it does not complete
(R142, R149, R150). -/
def State.readOp (s : State) (v : Word) : State := s.setBus s.inp.rstN (if s.inp.rstN then v else 0#32)

/-- A write that proposes the registers `r` and the requests `q`: it completes unless the block is in reset, and
proposes nothing where it does not complete (R144, R149, R150). -/
def State.writeOp (s : State) (r : Regs) (q : Requests) : State :=
  if s.inp.rstN then ((s.setBus true 0#32).setNxt r).setReq q else s.setBus false 0#32

/-- A transaction that does not complete in this cycle (R149). -/
def State.holdOp (s : State) : State := s.setBus false 0#32

/-- The job FIFO of the next cycle (R145). -/
def Requests.txqNext (q : Requests) (r : Regs) : List Word :=
  let t0 := if q.engPop2 then r.txq.drop 2 else r.txq
  if q.hFlushTx then []
  else
    match q.hPush with
    | some w => if r.txq.length < Config.txDepth then t0 ++ [w] else t0
    | none => t0

/-- The result FIFO of the next cycle (R146). -/
def Requests.rxqNext (q : Requests) (r : Regs) : List Word :=
  let r0 := if q.hPop then r.rxq.tail else r.rxq
  if q.hFlushRx then []
  else
    match q.engPush with
    | some w => r0 ++ [w]
    | none => r0

/-- The combination of R145 to R148: the elements with more than one writer are computed from the pre-cycle registers
`r` and the requests `q`; every other element is the one writer's proposal, or holds. -/
def combine (r nxt : Regs) (q : Requests) : Regs :=
  { nxt with
    txq := q.txqNext r
    rxq := q.rxqNext r
    toFlag := q.toFlagNext r
    txovfFlag := q.txovfFlagNext r
    rduArm := q.rduArmNext r
    rduFlag := q.rduFlagNext r }

/-- The registers after the clock edge: the reset state while `rst_n` is low (R32, R150), the combination otherwise. -/
def State.edgeRegs (s : State) : Regs := if s.inp.rstN then combine s.regs s.nxt s.req else Regs.reset

/-- The clock edge: the next cycle's registers become the state, and nothing is proposed yet (R9, R144). -/
def State.clockEdge (s : State) : State :=
  { s with regs := s.edgeRegs, nxt := s.edgeRegs, req := Requests.empty, cycle := s.cycle + 1 }

end Sys2Proof.Machine
end

