-- ==== Sys2Proof/Machine/Bus.lean ====
section
/-! DEFINITION. The sixteen host operations (R160 to R175): the word a read returns and the proposal a write makes, in
a cycle where the transaction completes. -/

namespace Sys2Proof.Machine

/-- RD_CTRL (R160). -/
def execRdCtrl (s : State) : Host.Outcome State Fault Refusal := .next (s.readOp s.regs.ctrlWord)

/-- WR_CTRL (R161): EN, WAITRDY, SCKSW, and the two flush commands. -/
def execWrCtrl (v : Word) (s : State) : Host.Outcome State Fault Refusal :=
  .next (s.writeOp (s.nxt.withCtrl v) (s.req.withCtrl v))

/-- RD_STATUS (R162). -/
def execRdStatus (s : State) : Host.Outcome State Fault Refusal := .next (s.readOp s.regs.statusWord)

/-- WR_STATUS (R163): clears the sticky flags written with 1. -/
def execWrStatus (v : Word) (s : State) : Host.Outcome State Fault Refusal :=
  .next (s.writeOp s.nxt (s.req.withStatus v))

/-- RD_TIMING (R164). -/
def execRdTiming (s : State) : Host.Outcome State Fault Refusal := .next (s.readOp s.regs.timingWord)

/-- WR_TIMING (R165). -/
def execWrTiming (v : Word) (s : State) : Host.Outcome State Fault Refusal :=
  .next (s.writeOp (s.nxt.withTiming v) s.req)

/-- RD_TXF (R166): returns 0 and reveals no job word. -/
def execRdTxf (s : State) : Host.Outcome State Fault Refusal := .next (s.readOp 0#32)

/-- WR_TXF (R167): appends a job word, or drops it into `txovf_flag` (R145). -/
def execWrTxf (v : Word) (s : State) : Host.Outcome State Fault Refusal := .next (s.writeOp s.nxt (s.req.withTxf v))

/-- RD_RXF (R168): returns and removes the oldest result word, and is held while there is none (R149, E3). -/
def execRdRxf (s : State) : Host.Outcome State Fault Refusal :=
  match s.regs.rxq with
  | [] => .next s.holdOp
  | w :: _ => .next (if s.inp.rstN then (s.readOp w).setReq { s.req with hPop := true } else s.holdOp)

/-- WR_RXF (R169): no proposal. -/
def execWrRxf (_v : Word) (s : State) : Host.Outcome State Fault Refusal := .next (s.writeOp s.nxt s.req)

/-- RD_RDY (R170): reading does not clear the flag. -/
def execRdRdy (s : State) : Host.Outcome State Fault Refusal := .next (s.readOp s.regs.rdyWord)

/-- WR_RDY (R171): ARM, DISARM, CLR, combined by R148. -/
def execWrRdy (v : Word) (s : State) : Host.Outcome State Fault Refusal := .next (s.writeOp s.nxt (s.req.withRdy v))

/-- RD_IE (R172). -/
def execRdIe (s : State) : Host.Outcome State Fault Refusal := .next (s.readOp s.regs.ieWord)

/-- WR_IE (R173). -/
def execWrIe (v : Word) (s : State) : Host.Outcome State Fault Refusal := .next (s.writeOp (s.nxt.withIe v) s.req)

/-- RD_RSVD (R174): returns 0. -/
def execRdRsvd (s : State) : Host.Outcome State Fault Refusal := .next (s.readOp 0#32)

/-- WR_RSVD (R175): no proposal. -/
def execWrRsvd (_v : Word) (s : State) : Host.Outcome State Fault Refusal := .next (s.writeOp s.nxt s.req)

end Sys2Proof.Machine
end

