-- ==== Sys2Proof/Machine/Engine.lean ====
section
/-! DEFINITION. The engine's rows: what each proposes for `st`, `wcnt`, `pcnt`, `acc`, `tcnt`, `sck_eng` and which
requests it makes (R144 item 3), from the pre-cycle state. A row is its rule whatever state it is applied to; the
step applies the one that `{ctrl_en, st}` selects (log 22). -/

namespace Sys2Proof.Machine

/-- The start of a high half-period: `st' <- HIGH; sck_eng' <- 1; tcnt' <- s.t_hi` (R206, R221, R224). -/
def Regs.enterHigh (nxt : Regs) (tHi : Byte) : Regs := { nxt with st := .high, sckEng := true, tcnt := tHi }

/-- ENG_STOPPED (R220): `st' <- IDLE; sck_eng' <- 0` and no request; the counters and the accumulator hold. The row is
`0xxx`: the state code does not matter. -/
def execEngStopped (_code : BitVec 3) (s : State) : Host.Outcome State Fault Refusal :=
  .next (s.setNxt { s.nxt with st := .idle, sckEng := false })

/-- ENG_IDLE (R221): a whole job is loaded, and the ready poll or the pulse train starts; one word alone is left. -/
def execEngIdle (s : State) : Host.Outcome State Fault Refusal :=
  match s.regs.txq with
  | budget :: pulses :: _ =>
    let loaded := { s.nxt with wcnt := budget, pcnt := pulses, acc := 0#32 }
    let started := if s.regs.ctrlWaitrdy then { loaded with st := .wait } else loaded.enterHigh s.regs.tHi
    .next ((s.setNxt started).setReq { s.req with engPop2 := true })
  | _ => .next s

/-- ENG_WAIT (R206): the level poll; a low line starts the train, an exhausted budget is a timeout (E1, R302). -/
def execEngWait (s : State) : Host.Outcome State Fault Refusal :=
  if s.regs.sync2 = false then .next (s.setNxt (s.nxt.enterHigh s.regs.tHi))
  else if s.regs.wcnt = 0#32 then
    .next ((s.setNxt { s.nxt with acc := Config.sentinel, st := .push }).setReq { s.req with engTo := true })
  else .next (s.setNxt { s.nxt with wcnt := s.regs.wcnt - 1#32 })

/-- ENG_HIGH (R223). -/
def execEngHigh (s : State) : Host.Outcome State Fault Refusal :=
  if s.regs.tcnt ≠ 0#8 then .next (s.setNxt { s.nxt with tcnt := s.regs.tcnt - 1#8 })
  else .next (s.setNxt { s.nxt with sckEng := false, tcnt := s.regs.tLo, st := .low })

/-- ENG_LOW (R224): the sample is taken in the last cycle of the low half-period, from `sync2` (R225). -/
def execEngLow (s : State) : Host.Outcome State Fault Refusal :=
  if s.regs.tcnt ≠ 0#8 then .next (s.setNxt { s.nxt with tcnt := s.regs.tcnt - 1#8 })
  else
    let sampled := { s.nxt with acc := shiftIn s.regs.acc s.regs.sync2 }
    if s.regs.pcnt = 0#32 then .next (s.setNxt { sampled with st := .push })
    else .next (s.setNxt ({ sampled with pcnt := s.regs.pcnt - 1#32 }.enterHigh s.regs.tHi))

/-- ENG_PUSH (R228): the word is delivered if the result FIFO has room, else the engine holds (E4, R305). -/
def execEngPush (s : State) : Host.Outcome State Fault Refusal :=
  if s.regs.rxq.length < Config.rxDepth then
    .next ((s.setNxt { s.nxt with st := .idle }).setReq { s.req with engPush := some s.regs.acc })
  else .next s

/-- ENG_RSVD5: a reserved state code that no rule writes and no state has (R114, I6; log 7). -/
def execEngRsvd5 (_s : State) : Host.Outcome State Fault Refusal := .refused (.reservedEngineState 5)

/-- ENG_RSVD6: as ENG_RSVD5 (R114, I6; log 7). -/
def execEngRsvd6 (_s : State) : Host.Outcome State Fault Refusal := .refused (.reservedEngineState 6)

/-- ENG_RSVD7: as ENG_RSVD5 (R114, I6; log 7). -/
def execEngRsvd7 (_s : State) : Host.Outcome State Fault Refusal := .refused (.reservedEngineState 7)

end Sys2Proof.Machine
end

