-- ==== Sys2Proof/Machine/Unit.lean ====
section
/-! DEFINITION. The three units that step in every cycle: the synchroniser (R200), the ready detector's edge detection
and capture (R201, R202), and the clock-line multiplexer (R230). -/

namespace Sys2Proof.Machine

/-- SYNC_STEP: `sync1' <- pin; sync2' <- s.sync1` (R200). -/
def execSyncStep (s : State) : Host.Outcome State Fault Refusal :=
  .next (s.setNxt { s.nxt with sync1 := s.inp.pin, sync2 := s.regs.sync1 })

/-- RDU_STEP: `rdu_prev' <- s.sync2`, and a falling edge seen while armed is a capture (R201, R202), combined with the
host's commands by R148 at the clock edge. -/
def execRduStep (s : State) : Host.Outcome State Fault Refusal :=
  .next ((s.setNxt { s.nxt with rduPrev := s.regs.sync2 }).setReq { s.req with capture := s.regs.captured })

/-- PIN_MUX: `sck = s.ctrl_en ? s.sck_eng : s.ctrl_scksw` (R230). -/
def execPinMux (s : State) : Host.Outcome State Fault Refusal := .next (s.setSck s.regs.sckPin)

end Sys2Proof.Machine
end

