-- ==== Sys2Proof/Machine/Dispatch.lean ====
section
/-! DEFINITION. The meaning of every row of the opcode table: what it contributes to the cycle it takes part in. -/

namespace Sys2Proof.Machine

def exec (i : Instr) (s : State) : Host.Outcome State Fault Refusal :=
  match i with
  -- host operations, R160 to R175
  | .rdCtrl => Sys2Proof.Machine.execRdCtrl s
  | .wrCtrl v => Sys2Proof.Machine.execWrCtrl v s
  | .rdStatus => Sys2Proof.Machine.execRdStatus s
  | .wrStatus v => Sys2Proof.Machine.execWrStatus v s
  | .rdTiming => Sys2Proof.Machine.execRdTiming s
  | .wrTiming v => Sys2Proof.Machine.execWrTiming v s
  | .rdTxf => Sys2Proof.Machine.execRdTxf s
  | .wrTxf v => Sys2Proof.Machine.execWrTxf v s
  | .rdRxf => Sys2Proof.Machine.execRdRxf s
  | .wrRxf v => Sys2Proof.Machine.execWrRxf v s
  | .rdRdy => Sys2Proof.Machine.execRdRdy s
  | .wrRdy v => Sys2Proof.Machine.execWrRdy v s
  | .rdIe => Sys2Proof.Machine.execRdIe s
  | .wrIe v => Sys2Proof.Machine.execWrIe v s
  | .rdRsvd => Sys2Proof.Machine.execRdRsvd s
  | .wrRsvd v => Sys2Proof.Machine.execWrRsvd v s
  -- engine rows, R220, R221, R206, R223, R224, R228, R114
  | .engStopped code => Sys2Proof.Machine.execEngStopped code s
  | .engIdle => Sys2Proof.Machine.execEngIdle s
  | .engWait => Sys2Proof.Machine.execEngWait s
  | .engHigh => Sys2Proof.Machine.execEngHigh s
  | .engLow => Sys2Proof.Machine.execEngLow s
  | .engPush => Sys2Proof.Machine.execEngPush s
  | .engRsvd5 => Sys2Proof.Machine.execEngRsvd5 s
  | .engRsvd6 => Sys2Proof.Machine.execEngRsvd6 s
  | .engRsvd7 => Sys2Proof.Machine.execEngRsvd7 s
  -- always-active units, R200, R202, R230
  | .syncStep => Sys2Proof.Machine.execSyncStep s
  | .rduStep => Sys2Proof.Machine.execRduStep s
  | .pinMux => Sys2Proof.Machine.execPinMux s

end Sys2Proof.Machine
end

