-- ==== Sys2Proof/Machine/Result.lean ====
section
/-! DEFINITION. Result decoding on the host: the mode and its pulse count (R270 to R272), the sentinel test (R273), and
`Decode` (R274 to R276). -/

namespace Sys2Proof.Machine

/-- The mode as the number the spec writes (R271). -/
def Mode.toNat : Mode → Nat
  | .m1 => 1
  | .m2 => 2
  | .m3 => 3

/-- The valid modes are 1, 2, 3; any other integer is none (R270, R271). -/
def Mode.ofInt (m : Int) : Option Mode :=
  if m = 1 then some .m1 else if m = 2 then some .m2 else if m = 3 then some .m3 else none

/-- The pulse count of a mode, `24 + mode` (R272). -/
def Mode.pulseCount (m : Mode) : Nat := 24 + m.toNat

/-- Job word 1 of a mode, `PULSES = 23 + mode` (R112, R272). -/
def Mode.pulsesWord (m : Mode) : Word := BitVec.ofNat 32 (23 + m.toNat)

/-- `Decode(w, mode)` (R274): the mode bits are shifted out and the low 24 bits read as two's complement. -/
def decodeResult (w : Word) (m : Mode) : Int :=
  let x := ((w >>> m.toNat).extractLsb' 0 24).toNat
  if x > 0x7FFFFF then (x : Int) - 0x1000000 else (x : Int)

/-- The sentinel test of the engine backends: `w = 0xFFFFFFFF` is a timeout (R273). -/
def isSentinel (w : Word) : Bool := w = Config.sentinel

/-- What a host makes of a result word of the self-contained engine (R273, R277). -/
def resultOf (w : Word) (m : Mode) : ReadResult :=
  if isSentinel w then .sensorTimeout else .value (decodeResult w m)

end Sys2Proof.Machine
end

