-- ==== Sys2Proof/Machine/Driver.lean ====
section
/-! DEFINITION. The host agent: what it presents in a cycle (R10, R70 to R73, R119, R120) and how it goes on at the end
of the cycle, by itself or with the transaction's answer (R151, R209, R270 to R283). An item that presents nothing
takes one cycle with `req = 0`, which is the host's liberty (R151; log 9). -/

namespace Sys2Proof.Machine

/-- What the host does on the bus in one cycle: nothing (`req = 0`), or one transaction (R33). -/
inductive Move where
  | quiet
  | present (cmd : Nibble) (wdata : Word)
  deriving DecidableEq, Repr

/-- `ctrlv` as a 32-bit value (R120). -/
def ctrlvWord (ctrlv : BitVec 3) : Word := ctrlv.setWidth 32

/-- The first transaction of a pseudo-instruction (R120); `submit` has a second one, see `HostOp.after`. -/
def Pseudo.transaction (ctrlv : BitVec 3) : Pseudo → Nibble × Word
  | .start => (0x1#4, ctrlvWord ctrlv ||| 0x1#32)
  | .stop => (0x1#4, ctrlvWord ctrlv &&& ~~~0x1#32)
  | .submit budget _ => (0x7#4, budget)
  | .getres => (0x8#4, 0#32)
  | .arm => (0xB#4, 0x1#32)
  | .disarm => (0xB#4, 0x2#32)
  | .clrrdy => (0xB#4, 0x4#32)
  | .sckhi => (0x1#4, (ctrlvWord ctrlv &&& ~~~0x1#32) ||| 0x4#32)
  | .scklo => (0x1#4, ctrlvWord ctrlv &&& ~~~0x5#32)
  | .flush => (0x1#4, ctrlvWord ctrlv ||| 0x18#32)
  | .clrto => (0x3#4, 0x00010000#32)

/-- A host load or store at byte address `addr` as a transaction: `BusRead`/`BusWrite` of the word offset
`(addr - BASE_ADDR) / 4` (R10, R70); an address outside the window (log 8), a width other than four bytes (R72) and a
misaligned address (R73) are refused. -/
def memTransaction (we : Bool) (addr size : Nat) (wdata : Word) : Except Refusal Move :=
  if addr < Config.baseAddr ∨ Config.baseAddr + 32 ≤ addr then .error .outsideWindow
  else if size ≠ 4 then .error .narrowAccess
  else if addr % 4 ≠ 0 then .error .misalignedAccess
  else .ok (.present (BitVec.ofNat 3 ((addr - Config.baseAddr) / 4) ++ bit1 we) wdata)

/-- What an item of the host's program does on the bus. -/
def HostOp.move (h : HostAgent) : HostOp → Except Refusal Move
  | .bus cmd wdata => .ok (.present cmd wdata)
  | .mem we addr size wdata => memTransaction we addr size wdata
  | .pseudo p => .ok (.present (p.transaction h.ctrlv).1 (p.transaction h.ctrlv).2)
  | .construct _ m => if Mode.ofInt m = none then .error .invalidInitialMode else .ok .quiet
  | .idle _ | .setMode _ | .read | .powerDown | .powerUp | .readBody => .ok .quiet
  | .readyTest _ | .raiseTimeout | .sentinelTest | .decodeWord | .clearAcc | .pulses _ | .shiftIn => .ok .quiet
  | .decodeAcc | .maskInts | .restoreInts | .discard | .ret => .ok .quiet

/-- The program without the items at its head that take no cycle: `idle 0` (R119) and the end of a finished call. -/
def skipDone : List HostOp → List HostOp
  | .idle 0 :: rest => skipDone rest
  | .ret :: rest => skipDone rest
  | ops => ops

/-- What the host does on the bus in this cycle (R33, R151). -/
def HostAgent.move (h : HostAgent) : Except Refusal Move :=
  match skipDone h.prog with
  | [] => .ok .quiet
  | op :: _ => op.move h

/-- The items that follow a presenting item once its transaction has completed: the second word of `submit` (R120). -/
def HostOp.after : HostOp → List HostOp
  | .pseudo (.submit _ p) => [.bus 0x7#4 p]
  | _ => []

/-- The host's sleep primitive (R209): 1 ms in `clk` cycles, rounded up (log 12). -/
def sleepMs : HostOp := .idle ((Config.fClk + 999) / 1000)

/-- `ReadyWaitSW` up to its first test (R209): 500 polls are allowed, this one among them. -/
def readyWait : List HostOp := [.pseudo .arm, .bus 0xA#4 0#32, .readyTest 499]

/-- What follows a poll of the ready flag with `left` polls still allowed: on the flag the detector is disarmed and the
wait ends; otherwise the host sleeps 1 ms and polls again, or disarms and raises `SensorTimeout` (R209). -/
def afterReadyPoll (flag : Bool) (left : Nat) : List HostOp :=
  if flag then [.pseudo .disarm]
  else
    match left with
    | 0 => [sleepMs, .pseudo .disarm, .raiseTimeout]
    | left' + 1 => [sleepMs, .bus 0xA#4 0#32, .readyTest left']

/-- The bit-bang loop with `left` pulses to go (R279): interrupts are masked across each pulse pair only (C3). -/
def bitBangPulses (gh gs : Nat) : Nat → List HostOp
  | 0 => [.decodeAcc]
  | left + 1 =>
    [.maskInts, .pseudo .sckhi, .idle gh, .pseudo .scklo, .restoreInts, .idle gs, .bus 0x2#4 0#32, .shiftIn, .pulses left]

/-- The transactions of `read()` for each backend (R277, R278, R279). -/
def readOps (m : Mode) : Backend → List HostOp
  | .selfContained budget =>
    [.pseudo (.submit budget m.pulsesWord), .pseudo .getres, .sentinelTest, .decodeWord]
  | .hybrid => readyWait ++ [.pseudo (.submit 0#32 m.pulsesWord), .pseudo .getres, .decodeWord]
  | .bitBang _ _ => readyWait ++ [.clearAcc, .pulses m.pulseCount]

/-- The two warm-up reads with their results discarded (R270, R332). -/
def warmUp : List HostOp := [.readBody, .discard, .readBody, .discard, .ret]

/-- `power_up()` (R281): the clock line low, then for an engine backend `start` again. -/
def powerUpOps : Backend → List HostOp
  | .bitBang _ _ => [.pseudo .scklo]
  | .selfContained _ | .hybrid => [.pseudo .scklo, .pseudo .start]

/-- The `CTRL` value of a backend (R332 item 4). -/
def Backend.ctrl : Backend → Word
  | .selfContained _ => 0x3#32
  | .hybrid => 0x1#32
  | .bitBang _ _ => 0x0#32

/-- The boot order after reset (R332 items 2 to 6): `TIMING`, `IE`, `CTRL`, the settling wait, the construction. -/
def bootOps (timing ie : Word) (b : Backend) (settle : Nat) (mode : Int) : List HostOp :=
  [.bus 0x5#4 timing, .bus 0xD#4 ie, .bus 0x1#4 b.ctrl, .idle settle, .construct b mode]

/-- What is left of the program when a call raises: everything after the end of the call (R283). -/
def dropCall : List HostOp → List HostOp
  | [] => []
  | .ret :: rest => rest
  | _ :: rest => dropCall rest

/-- `raise SensorTimeout`: the outcome of the read, and the rest of the call is dropped (R273, R283). -/
def HostAgent.raise (h : HostAgent) (rest : List HostOp) : HostAgent := { h with result := some .sensorTimeout, prog := dropCall rest }

/-- The host after an item that presented nothing; `rest` is the program behind it. -/
def HostAgent.internal (h : HostAgent) (rest : List HostOp) : HostOp → HostAgent
  | .idle n => { h with prog := .idle (n - 1) :: rest }
  | .construct b m =>
    match Mode.ofInt m with
    | some mode => { h with mode := mode, backend := b, prog := warmUp ++ rest }
    | none => { h with prog := rest }
  | .setMode m =>
    match Mode.ofInt m with
    | some mode => { h with mode := mode, prog := warmUp ++ rest }
    | none => { h with prog := rest }
  | .read => { h with prog := .readBody :: .ret :: rest }
  | .readBody => { h with prog := readOps h.mode h.backend ++ rest }
  | .powerDown => { h with prog := [.pseudo .scklo, .pseudo .sckhi, .ret] ++ rest }
  | .powerUp => { h with prog := powerUpOps h.backend ++ .ret :: rest }
  | .readyTest left => { h with prog := afterReadyPoll (bit h.rdata 1) left ++ rest }
  | .raiseTimeout => h.raise rest
  | .sentinelTest => if isSentinel h.rdata then h.raise rest else { h with prog := rest }
  | .decodeWord => { h with result := some (.value (decodeResult h.rdata h.mode)), prog := rest }
  | .clearAcc => { h with acc := 0#32, prog := rest }
  | .pulses left =>
    match h.backend with
    | .bitBang gh gs => { h with prog := bitBangPulses gh gs left ++ rest }
    | .selfContained _ | .hybrid => { h with prog := bitBangPulses 0 0 left ++ rest }
  | .shiftIn => { h with acc := shiftIn h.acc (bit h.rdata 12), prog := rest }
  | .decodeAcc => { h with result := some (.value (decodeResult h.acc h.mode)), prog := rest }
  | .maskInts => { h with ints := false, savedInts := h.ints, prog := rest }
  | .restoreInts => { h with ints := h.savedInts, prog := rest }
  | .discard => { h with result := none, prog := rest }
  | .bus _ _ | .mem _ _ _ _ | .pseudo _ | .ret => { h with prog := rest }

/-- What the host keeps of a completed transaction: the word a read returned, and the value it wrote to CTRL bits 2:0
(R120). -/
def HostAgent.note (h : HostAgent) (cmd : Nibble) (wdata rdata : Word) : HostAgent :=
  if cmd.getLsbD 0 = false then { h with rdata := rdata }
  else if cmd = 0x1#4 then { h with ctrlv := wdata.extractLsb' 0 3 }
  else h

/-- The host at the end of a cycle in which it made the move `m` and saw `ack` and `rdata`: a transaction that did not
complete is presented again (R151), every other item gives way to the next. -/
def HostAgent.advance (h : HostAgent) (m : Move) (ack : Bool) (rdata : Word) : HostAgent :=
  match skipDone h.prog with
  | [] => { h with prog := [] }
  | op :: rest =>
    match m with
    | .quiet => h.internal rest op
    | .present cmd wdata =>
      if ack then { h.note cmd wdata rdata with prog := op.after ++ rest } else { h with prog := op :: rest }

end Sys2Proof.Machine
end

