-- ==== Sys2Proof/Machine/Cycle.lean ====
section
/-! DEFINITION. One cycle: the ports are read from the host and the environment (R30, R141, R143), every row that takes
part contributes (R144), and the clock edge combines them while the host and the environment go on (R145 to R151). -/

namespace Sys2Proof.Machine

/-- The level of `rst_n` in this cycle; high where none is scheduled (R32, R151; log 4). -/
def Env.rstN (e : Env) : Bool := e.rst.headD true

/-- The value on the `dout` port in cycle `n`: the scheduled level, or a free draw (R143; log 2, log 3). -/
def Env.pin (e : Env) (n : Nat) : Bool :=
  match e.data with
  | .level b :: _ => b
  | _ => Config.pinDraw n

/-- The schedule of the cycles after this one. -/
def Env.advance (e : Env) : Env := { rst := e.rst.tail, data := e.data.tail }

/-- The input ports of a cycle in which the host makes the move `m` (R30, R100: `cmd = {off, we}`). -/
def inputsOf (m : Move) (rstN pin : Bool) : Inputs :=
  match m with
  | .quiet => { rstN := rstN, pin := pin, req := false, we := false, off := 0#3, wdata := 0#32 }
  | .present cmd wdata =>
    { rstN := rstN, pin := pin, req := true, we := cmd.getLsbD 0, off := cmd.extractLsb' 1 3, wdata := wdata }

/-- The start of a cycle: the ports are sampled, every register holds unless a row proposes otherwise (R9), nothing is
requested, no transaction has completed, and `irq` shows the pre-cycle state (R36, R142). -/
def State.openCycle (s : State) (m : Move) : State :=
  { s with
    nxt := s.regs
    req := Requests.empty
    inp := inputsOf m s.env.rstN (s.env.pin s.cycle)
    out := { sck := s.regs.sckPin, irq := s.regs.irqLevel, ack := false, rdata := 0#32 } }

/-- The engine row of this cycle, selected by `{ctrl_en, st}` (R220, opcode table). -/
def Regs.engineRow (r : Regs) : Instr := decodeSelector r.selector

/-- The host's row of this cycle, decoded from what it presents (R100, R102). -/
def Move.row : Move → List Instr
  | .quiet => []
  | .present cmd wdata => [decodeBus cmd wdata]

/-- The rows that take part in a cycle, in the order R144 lists them. -/
def State.rows (s : State) (m : Move) : List Instr :=
  [.syncStep, .rduStep, .pinMux, s.regs.engineRow] ++ m.row

/-- Every row contributes; a refusal or fault ends the cycle. -/
def runRows : List Instr → State → Host.Outcome State Fault Refusal
  | [], s => .next s
  | i :: is, s =>
    match exec i s with
    | .next s' => runRows is s'
    | .fault r => .fault r
    | .refused r => .refused r

/-- The end of a cycle: the clock edge, and the host and the environment go on (R144, R151). -/
def State.closeCycle (s : State) (m : Move) : State :=
  { s.clockEdge with host := s.host.advance m s.out.ack s.out.rdata, env := s.env.advance }

/-- A whole cycle in which the host makes the move `m` (R141). -/
def State.cycleWith (s : State) (m : Move) : Host.Outcome State Fault Refusal :=
  match runRows (s.rows m) (s.openCycle m) with
  | .next t => .next (t.closeCycle m)
  | .fault r => .fault r
  | .refused r => .refused r

/-- The engine's state that has a code (R114); none has a reserved one. -/
def EngState.ofCode (code : BitVec 3) : Option EngState :=
  match code.toNat with
  | 0 => some .idle
  | 1 => some .wait
  | 2 => some .high
  | 3 => some .low
  | 4 => some .push
  | _ => none

/-- `s` with `rst_n` high in the cycle to come, where a level is scheduled for it. -/
def Env.releaseReset (e : Env) : Env :=
  match e.rst with
  | [] => e
  | _ :: rest => { e with rst := true :: rest }

/-- `s` with the operation `i` placed so that the next cycle runs it: a transaction before the rest of the host's
program, an engine row by the selector that picks it (nothing for a reserved code, which no state has), and nothing
for a unit, which runs in every cycle (log 15). -/
def State.place (s : State) (i : Instr) : State :=
  let s' := { s with env := s.env.releaseReset }
  match encodeBus i with
  | some (cmd, wdata) => { s' with host := { s'.host with prog := .bus cmd wdata :: s'.host.prog } }
  | none =>
    match encodeSelector i with
    | some sel =>
      match EngState.ofCode (sel.extractLsb' 0 3) with
      | some st => { s' with regs := { s'.regs with ctrlEn := sel.getLsbD 3, st := st } }
      | none => s'
    | none => s'

end Sys2Proof.Machine
end

