-- ==== Sys2Proof/Machine/Step.lean ====
section
/-! DEFINITION. The step: one `clk` cycle (R9, R141), with the move the host makes in it. -/

namespace Sys2Proof.Machine

/-- One cycle of the whole machine; refused only where the host makes an access or a construction that a model refuses
(R72, R73, R271). -/
def step (s : State) : Host.Outcome State Fault Refusal :=
  match s.host.move with
  | .ok m => s.cycleWith m
  | .error r => .refused r

/-- `s` with the operation that the decoder reads from the table's bits placed for the next cycle (log 15); `s` itself
where they are no operation. -/
def State.withFetchWord (s : State) (nbits w : Nat) : State :=
  match decodeTableWord nbits w with
  | some i => s.place i
  | none => s

end Sys2Proof.Machine
end

