-- ==== Sys2Proof/Machine/Program.lean ====
section
/-! DEFINITION. Host programs, one transaction per line (R119): the register names, the lines `rd` and `wr`, and the
listing form `cmd:wdata` of a line in hexadecimal. -/

namespace Sys2Proof.Machine

/-- The eight register names of R102 and R119. -/
inductive Reg where
  | ctrl
  | status
  | timing
  | txf
  | rxf
  | rdy
  | ie
  | rsvd
  deriving DecidableEq, Repr

/-- The word offset of a register (R102). -/
def Reg.off : Reg → BitVec 3
  | .ctrl => 0#3
  | .status => 1#3
  | .timing => 2#3
  | .txf => 3#3
  | .rxf => 4#3
  | .rdy => 5#3
  | .ie => 6#3
  | .rsvd => 7#3

/-- `rd <REG>` is `BusRead(off)` (R119); its `wdata` is written 0. -/
def rd (r : Reg) : HostOp := .bus (r.off ++ bit1 false) 0#32

/-- `wr <REG>, v` is `BusWrite(off, v)` (R119). -/
def wr (r : Reg) (v : Word) : HostOp := .bus (r.off ++ bit1 true) v

/-- A register's byte address as the host sees it, `BASE_ADDR + 4*off` (R70). -/
def Reg.addr (r : Reg) : Nat := Config.baseAddr + 4 * r.off.toNat

/-- One hexadecimal digit, as R119 writes them. -/
def hexDigit (d : Nibble) : Char :=
  "0123456789ABCDEF".toList.getD d.toNat '0'

/-- The listing of a line, `cmd:wdata` in hexadecimal (R119), as its characters. -/
def listing (cmd : Nibble) (wdata : Word) : List Char :=
  hexDigit cmd :: ':' :: [28, 24, 20, 16, 12, 8, 4, 0].map (fun lo => hexDigit (wdata.extractLsb' lo 4))

end Sys2Proof.Machine
end

