-- ==== Sys2Proof/Safety.lean ====
section
/-! DEFINITION. The terms claims are stated in: the invariant of the block, silent hosts and quiet states, the fold of
the sampled bits, the durations of the engine, and the hazards software must respect (R333 to R343). -/

namespace Sys2Proof.Machine

/-! ### Invariants -/

/-- What holds of the block's registers in every state a step leads to from a state where it holds: each FIFO within its
capacity (R45, R46), and `sck_eng` 1 exactly in HIGH (R52, R222). -/
def Regs.Inv (r : Regs) : Prop :=
  r.txq.length ≤ Config.txDepth ∧ r.rxq.length ≤ Config.rxDepth ∧ r.sckEng = decide (r.st = .high)

/-- Between cycles nothing is proposed (log 1). -/
def State.Settled (s : State) : Prop := s.nxt = s.regs ∧ s.req = Requests.empty

/-- The machine's invariant. -/
def State.Inv (s : State) : Prop := s.regs.Inv ∧ s.Settled

/-! ### Hosts and schedules -/

/-- `s` with the host presenting nothing in the cycle to come and then going on: the twin a transaction's effect is
compared with. -/
def State.hostSilent (s : State) : State := { s with host := { s.host with prog := .idle 1 :: s.host.prog } }

/-- The host presents `cmd:wdata` in the cycle to come (R33). -/
def State.Presents (s : State) (cmd : Nibble) (wdata : Word) : Prop := s.host.move = .ok (.present cmd wdata)

/-- `rst_n` is high in the cycle to come. -/
def State.Running (s : State) : Prop := s.env.rstN = true

/-- The next item of the host's program, and the rest behind it. -/
def State.Next (s : State) (op : HostOp) (rest : List HostOp) : Prop := skipDone s.host.prog = op :: rest

/-- The host has nothing more to do and never lowers `rst_n`: what the engine then does is the engine's alone. -/
def State.Quiet (s : State) : Prop := s.host.prog = [] ∧ s.env.rst = []

/-- In each of the next `k` cycles `rst_n` is high and the host writes neither `CTRL` nor `TIMING`, whatever else it does:
what a pulse train's regularity asks of the host (R231, R232). -/
def State.Regular : Nat → State → Prop
  | 0, _ => True
  | k + 1, s =>
    s.Running ∧ (∃ m, s.host.move = .ok m ∧ ∀ v, m ≠ .present 0x1#4 v ∧ m ≠ .present 0x5#4 v) ∧
      ∀ t, step s = .next t → t.Regular k

/-- The data line of the next cycles is scheduled to carry `levels`. -/
def State.Line (s : State) (levels : List Bool) : Prop := levels.map DataLine.level <+: s.env.data

/-- The host is held at a read of an empty result FIFO with the engine stopped (R153). -/
def State.Hung (s : State) : Prop :=
  (∃ wdata, s.Presents 0x8#4 wdata) ∧ s.regs.ctrlEn = false ∧ s.regs.rxq = []

/-! ### The accumulator and the engine's durations -/

/-- The accumulator after the samples `bits`, the first pulse's first (R226). -/
def accumulate (acc : Word) (bits : List Bool) : Word := bits.foldl shiftIn acc

/-- The high half-period in cycles, `H = t_hi + 1` (R115). -/
def Regs.highCycles (r : Regs) : Nat := r.tHi.toNat + 1

/-- The low half-period in cycles, `L = t_lo + 1` (R115). -/
def Regs.lowCycles (r : Regs) : Nat := r.tLo.toNat + 1

/-- One pulse in cycles, `H + L` (R115, R231). -/
def Regs.pulseCycles (r : Regs) : Nat := r.highCycles + r.lowCycles

/-- The number of pulses of a job word, `N = PULSES + 1` computed without wrapping (R112). -/
def pulsesOf (w : Word) : Nat := w.toNat + 1

/-- The samples of `n` pulses of `period` cycles each, where `stream` lists what the synchronised data line shows in the
cycles from the first pulse's first cycle on: the sample of a pulse is taken in its last cycle (R225). -/
def sampled (stream : List Bool) (period n : Nat) : List Bool :=
  (List.range n).map (fun k => stream.getD ((k + 1) * period - 1) false)

/-- A ready-wait timeout happens in this cycle: the engine is in WAIT, the line is high and the budget is used up
(R206). -/
def Regs.timesOut (r : Regs) : Bool := r.ctrlEn && r.st == .wait && r.sync2 && r.wcnt == 0#32

/-- The engine takes a job in this cycle (R221). -/
def Regs.takesJob (r : Regs) : Bool := r.ctrlEn && r.st == .idle && decide (2 ≤ r.txq.length)

/-- The word the engine delivers in this cycle, if any (R228). -/
def Regs.delivers (r : Regs) : Option Word :=
  if r.ctrlEn && r.st == .push && decide (r.rxq.length < 4) then some r.acc else none

/-! ### Hazards -/

/-- The engine samples the bit of its own pulse: `t_hi + t_lo >= 1 + D_CHIP` (R333). -/
def Regs.SamplesInTime (r : Regs) : Prop := 1 + Config.dChip ≤ r.tHi.toNat + r.tLo.toNat

/-- The high half-period is below a hold time of `holdUs` microseconds at `F_CLK` (R334). -/
def Regs.HighBelowHold (r : Regs) (fClk holdUs : Nat) : Prop := r.highCycles * 1000000 < holdUs * fClk

/-- Configuration may be written: `BUSY = 0` and no job is queued (R335). -/
def Regs.MayConfigure (r : Regs) : Prop := r.busy = false ∧ r.txq.length < 2

/-- A stop in this cycle leaves the chip with a partial pulse train (R336). -/
def Regs.StopCutsTrain (r : Regs) : Prop := r.ctrlEn = true ∧ (r.st = .high ∨ r.st = .low)

/-- No job word was dropped, so later words still pair up as jobs (R337). -/
def Regs.PairingKept (r : Regs) : Prop := r.txovfFlag = false

/-- After an overflow software stops the engine, flushes the job FIFO and clears the flag before it queues again (R337). -/
def overflowRecovery : List HostOp := [.pseudo .stop, .pseudo .flush, .bus 0x3#4 0x00020000#32]

/-- An ARM now can capture the next fall: the data line is not already at its ready level (R340). -/
def Regs.ArmSeesFall (r : Regs) : Prop := r.sync2 = true

/-- The next job is queued only after the previous result is read, so its poll does not see a stale level (R341). -/
def Regs.QueuesAfterResult (r : Regs) : Prop := r.busy = false ∧ r.txq = [] ∧ r.rxq = []

/-- A hybrid job is queued only after a ready wait has succeeded (R342). -/
def Regs.MayQueueHybrid (r : Regs) : Prop := r.ctrlWaitrdy = true ∨ r.rduFlag = true

/-- `RD_RXF` may be issued: a word waits, or a job is queued or running with `EN = 1` (R338). -/
def Regs.MayReadRxf (r : Regs) : Prop := r.rxq ≠ [] ∨ (r.ctrlEn = true ∧ (r.busy = true ∨ 2 ≤ r.txq.length))

/-- A bit-bang read in cycle `r` after a `sckhi` in cycle `a` sees that pulse's bit (R339). -/
def BitBangInTime (a r : Nat) : Prop := a + 3 + Config.dChip ≤ r

/-- A job's raw word cannot be the sentinel: fewer than 32 pulses (R113, R343). -/
def Unambiguous (pulses : Word) : Prop := pulsesOf pulses ≤ 31

end Sys2Proof.Machine
end

