-- ==== Sys2Proof/Certificates/Slice0/Obligations.lean ====
section
/-! DEFINITION. The statements for the provers, from the spec's numbered rules: encodings, each row's meaning, what a
cycle does, the invariants, the engine's runs, and the host's side. -/

open Sys2Proof Sys2Proof.Machine

/-! ### Encodings -/

/-- R102: the full decode of `cmd`, every one of the sixteen values, at the host address the table gives it. -/
def Obligations.CommandTable : Prop :=
  ∀ w : Word,
    decodeBus 0x0#4 w = .rdCtrl ∧ decodeBus 0x1#4 w = .wrCtrl w ∧
    decodeBus 0x2#4 w = .rdStatus ∧ decodeBus 0x3#4 w = .wrStatus w ∧
    decodeBus 0x4#4 w = .rdTiming ∧ decodeBus 0x5#4 w = .wrTiming w ∧
    decodeBus 0x6#4 w = .rdTxf ∧ decodeBus 0x7#4 w = .wrTxf w ∧
    decodeBus 0x8#4 w = .rdRxf ∧ decodeBus 0x9#4 w = .wrRxf w ∧
    decodeBus 0xA#4 w = .rdRdy ∧ decodeBus 0xB#4 w = .wrRdy w ∧
    decodeBus 0xC#4 w = .rdIe ∧ decodeBus 0xD#4 w = .wrIe w ∧
    decodeBus 0xE#4 w = .rdRsvd ∧ decodeBus 0xF#4 w = .wrRsvd w ∧
    ∀ (off : BitVec 3) (we : Bool),
      memTransaction we (Config.baseAddr + 4 * off.toNat) 4 w = .ok (.present (off ++ BitVec.ofBool we) w)

/-- The selector `{ctrl_en, st}` of the opcode table's engine rows (R114, R220), and that a state of the block never
selects a reserved row. -/
def Obligations.SelectorTable : Prop :=
  (∀ code : BitVec 3, decodeSelector (0#1 ++ code) = .engStopped code) ∧
  decodeSelector 0b1000#4 = .engIdle ∧ decodeSelector 0b1001#4 = .engWait ∧ decodeSelector 0b1010#4 = .engHigh ∧
  decodeSelector 0b1011#4 = .engLow ∧ decodeSelector 0b1100#4 = .engPush ∧ decodeSelector 0b1101#4 = .engRsvd5 ∧
  decodeSelector 0b1110#4 = .engRsvd6 ∧ decodeSelector 0b1111#4 = .engRsvd7 ∧
  ∀ r : Regs, r.engineRow.wellFormed = true

/-- Decoding an encoded operation gives it back, whatever follows (the byte container is the model's choice, log 5). -/
def Obligations.DecodeOfEncode : Prop :=
  ∀ (i : Instr) (rest : List Byte), decode (encode i ++ rest) = .ok (i, rest)

/-- R100, R101: the command is decoded exactly, a write's data word is kept whole and a read's is ignored. -/
def Obligations.CommandDecodedExactly : Prop :=
  ∀ (cmd : Nibble) (w : Word),
    encodeBus (decodeBus cmd w) = some (cmd, if cmd.getLsbD 0 then w else 0#32)

/-- Some lines of R119 and 95_test_vectors.md, and some selectors, in the model's byte container (log 5). -/
def Obligations.SampleBytesDecode : Prop :=
  decode [0x07#8, 0x18#8, 0x00#8, 0x00#8, 0x00#8] = .ok (.wrTxf 24#32, []) ∧
  decode [0x08#8, 0x00#8, 0x00#8, 0x00#8, 0x00#8] = .ok (.rdRxf, []) ∧
  decode [0x0D#8, 0x04#8, 0x00#8, 0x00#8, 0x00#8] = .ok (.wrIe 4#32, []) ∧
  decode [0x03#8, 0x00#8, 0x00#8, 0x01#8, 0x00#8] = .ok (.wrStatus 0x10000#32, []) ∧
  decode [0x1B#8] = .ok (.engLow, []) ∧ decode [0x13#8] = .ok (.engStopped 3#3, []) ∧
  decode [0x20#8] = .ok (.syncStep, []) ∧ decode [0x30#8] = .error (.unknownFormat 3)

/-! ### What each row proposes -/

/-- R160, R162, R164, R166, R170, R172, R174: a read outside reset completes with the word of its register and changes
nothing else. -/
def Obligations.ReadsReturnRegisters : Prop :=
  ∀ s : State, s.inp.rstN = true →
    let answered (w : Word) : Host.Outcome State Fault Refusal :=
      .next { s with out := { s.out with ack := true, rdata := w } }
    exec .rdCtrl s = answered
      (0#27 ++ 0#1 ++ 0#1 ++ BitVec.ofBool s.regs.ctrlScksw ++ BitVec.ofBool s.regs.ctrlWaitrdy ++ BitVec.ofBool s.regs.ctrlEn) ∧
    exec .rdStatus s = answered
      (0#12 ++ BitVec.ofBool (decide (s.regs.rxq.length ≠ 0)) ++ BitVec.ofBool s.regs.rduFlag ++ BitVec.ofBool s.regs.txovfFlag
        ++ BitVec.ofBool s.regs.toFlag ++ 0#2
        ++ BitVec.ofBool (if s.regs.ctrlEn then s.regs.sckEng else s.regs.ctrlScksw) ++ BitVec.ofBool s.regs.sync2
        ++ BitVec.ofNat 4 s.regs.rxq.length ++ BitVec.ofNat 4 s.regs.txq.length
        ++ BitVec.ofBool (decide (s.regs.st ≠ .idle))
        ++ (match s.regs.st with | .idle => 0#3 | .wait => 1#3 | .high => 2#3 | .low => 3#3 | .push => 4#3)) ∧
    exec .rdTiming s = answered (0#16 ++ s.regs.tLo ++ s.regs.tHi) ∧
    exec .rdTxf s = answered 0#32 ∧
    exec .rdRdy s = answered (0#30 ++ BitVec.ofBool s.regs.rduFlag ++ BitVec.ofBool s.regs.rduArm) ∧
    exec .rdIe s = answered
      (0#29 ++ BitVec.ofBool s.regs.ieTo ++ BitVec.ofBool s.regs.ieRxne ++ BitVec.ofBool s.regs.ieRdy) ∧
    exec .rdRsvd s = answered 0#32

/-- R168, R149: `RD_RXF` completes with the oldest result word and asks for its removal, and is held, `ack = 0`, while
there is none. -/
def Obligations.ResultReadPopsOrHolds : Prop :=
  ∀ s : State, s.inp.rstN = true →
    (∀ w rest, s.regs.rxq = w :: rest →
      exec .rdRxf s = .next { s with req := { s.req with hPop := true }, out := { s.out with ack := true, rdata := w } }) ∧
    (s.regs.rxq = [] → exec .rdRxf s = .next { s with out := { s.out with ack := false, rdata := 0#32 } })

/-- R161, R165, R173: what the writes of `CTRL`, `TIMING` and `IE` propose; every other element and request is as it was. -/
def Obligations.RegisterWritesPropose : Prop :=
  ∀ (s : State) (v : Word), s.inp.rstN = true →
    exec (.wrCtrl v) s = .next { s with
      nxt := { s.nxt with ctrlEn := v.getLsbD 0, ctrlWaitrdy := v.getLsbD 1, ctrlScksw := v.getLsbD 2 }
      req := { s.req with hFlushTx := v.getLsbD 3, hFlushRx := v.getLsbD 4 }
      out := { s.out with ack := true, rdata := 0#32 } } ∧
    exec (.wrTiming v) s = .next { s with
      nxt := { s.nxt with tHi := v.extractLsb' 0 8, tLo := v.extractLsb' 8 8 }
      out := { s.out with ack := true, rdata := 0#32 } } ∧
    exec (.wrIe v) s = .next { s with
      nxt := { s.nxt with ieRdy := v.getLsbD 0, ieRxne := v.getLsbD 1, ieTo := v.getLsbD 2 }
      out := { s.out with ack := true, rdata := 0#32 } }

/-- R163, R167, R171: what the writes of `STATUS`, `TXF` and `RDY` request; no element is proposed. -/
def Obligations.CommandWritesRequest : Prop :=
  ∀ (s : State) (v : Word), s.inp.rstN = true →
    exec (.wrStatus v) s = .next { s with
      req := { s.req with hW1cTo := v.getLsbD 16, hW1cTxovf := v.getLsbD 17 }
      out := { s.out with ack := true, rdata := 0#32 } } ∧
    exec (.wrTxf v) s = .next { s with
      req := { s.req with hPush := some v }, out := { s.out with ack := true, rdata := 0#32 } } ∧
    exec (.wrRdy v) s = .next { s with
      req := { s.req with hArm := v.getLsbD 0, hDisarm := v.getLsbD 1, hClr := v.getLsbD 2 }
      out := { s.out with ack := true, rdata := 0#32 } }

/-- R169, R175: writes of `RXF` and of the reserved offset complete and propose nothing. -/
def Obligations.IgnoredWritesProposeNothing : Prop :=
  ∀ (s : State) (v : Word), s.inp.rstN = true →
    exec (.wrRxf v) s = .next { s with out := { s.out with ack := true, rdata := 0#32 } } ∧
    exec (.wrRsvd v) s = .next { s with out := { s.out with ack := true, rdata := 0#32 } }

/-- R32, R150: in a reset cycle no transaction completes and none proposes anything. -/
def Obligations.NoTransactionInReset : Prop :=
  ∀ (s : State) (cmd : Nibble) (w : Word), s.inp.rstN = false →
    exec (decodeBus cmd w) s = .next { s with out := { s.out with ack := false, rdata := 0#32 } }

/-- R220: the stopped engine goes to IDLE with its line low, requests nothing, and holds its counters and accumulator,
whatever its state code. -/
def Obligations.StoppedEngineIdles : Prop :=
  ∀ (s : State) (code : BitVec 3),
    exec (.engStopped code) s = .next { s with nxt := { s.nxt with st := .idle, sckEng := false } }

/-- R221: IDLE loads a whole job and starts the poll or the train, and leaves less than a job alone. -/
def Obligations.IdleLoadsJob : Prop :=
  ∀ s : State,
    (∀ b p rest, s.regs.txq = b :: p :: rest →
      exec .engIdle s = .next { s with
        nxt :=
          if s.regs.ctrlWaitrdy then { s.nxt with wcnt := b, pcnt := p, acc := 0#32, st := .wait }
          else { s.nxt with wcnt := b, pcnt := p, acc := 0#32, st := .high, sckEng := true, tcnt := s.regs.tHi }
        req := { s.req with engPop2 := true } }) ∧
    (s.regs.txq.length < 2 → exec .engIdle s = .next s)

/-- R206: WAIT polls the synchronised level once: low starts the train, high with the budget at 0 is a timeout, high
otherwise counts down. -/
def Obligations.WaitPollsLevel : Prop :=
  ∀ s : State,
    (s.regs.sync2 = false →
      exec .engWait s = .next { s with nxt := { s.nxt with st := .high, sckEng := true, tcnt := s.regs.tHi } }) ∧
    (s.regs.sync2 = true → s.regs.wcnt = 0#32 →
      exec .engWait s = .next { s with
        nxt := { s.nxt with acc := 0xFFFFFFFF#32, st := .push }, req := { s.req with engTo := true } }) ∧
    (s.regs.sync2 = true → s.regs.wcnt ≠ 0#32 →
      exec .engWait s = .next { s with nxt := { s.nxt with wcnt := s.regs.wcnt - 1#32 } })

/-- R223: HIGH counts its half-period down, then drives the line low and starts the low half-period. -/
def Obligations.HighCountsDown : Prop :=
  ∀ s : State,
    (s.regs.tcnt ≠ 0#8 → exec .engHigh s = .next { s with nxt := { s.nxt with tcnt := s.regs.tcnt - 1#8 } }) ∧
    (s.regs.tcnt = 0#8 →
      exec .engHigh s = .next { s with nxt := { s.nxt with sckEng := false, tcnt := s.regs.tLo, st := .low } })

/-- R224: LOW counts its half-period down, then samples once and starts the next pulse or ends the train. -/
def Obligations.LowSamplesOnce : Prop :=
  ∀ s : State,
    (s.regs.tcnt ≠ 0#8 → exec .engLow s = .next { s with nxt := { s.nxt with tcnt := s.regs.tcnt - 1#8 } }) ∧
    (s.regs.tcnt = 0#8 → s.regs.pcnt = 0#32 →
      exec .engLow s = .next { s with
        nxt := { s.nxt with
          acc := (s.regs.acc <<< 1) ||| BitVec.setWidth 32 (BitVec.ofBool s.regs.sync2)
          st := .push } }) ∧
    (s.regs.tcnt = 0#8 → s.regs.pcnt ≠ 0#32 →
      exec .engLow s = .next { s with
        nxt := { s.nxt with
          acc := (s.regs.acc <<< 1) ||| BitVec.setWidth 32 (BitVec.ofBool s.regs.sync2)
          pcnt := s.regs.pcnt - 1#32, sckEng := true, tcnt := s.regs.tHi, st := .high } })

/-- R228: PUSH delivers the accumulator where the result FIFO has room and holds where it has none. -/
def Obligations.PushDeliversOrHolds : Prop :=
  ∀ s : State,
    (s.regs.rxq.length < 4 →
      exec .engPush s = .next { s with
        nxt := { s.nxt with st := .idle }, req := { s.req with engPush := some s.regs.acc } }) ∧
    (4 ≤ s.regs.rxq.length → exec .engPush s = .next s)

/-- R200, R201, R202, R230: what the three units propose and drive. -/
def Obligations.UnitsPropose : Prop :=
  ∀ s : State,
    exec .syncStep s = .next { s with nxt := { s.nxt with sync1 := s.inp.pin, sync2 := s.regs.sync1 } } ∧
    exec .rduStep s = .next { s with
      nxt := { s.nxt with rduPrev := s.regs.sync2 }
      req := { s.req with capture := s.regs.rduArm && (s.regs.rduPrev && !s.regs.sync2) } } ∧
    exec .pinMux s = .next { s with
      out := { s.out with sck := if s.regs.ctrlEn then s.regs.sckEng else s.regs.ctrlScksw } }

/-- R114: the rows of the reserved state codes, which no rule gives an effect, are refused by name (log 7). -/
def Obligations.ReservedRowsRefused : Prop :=
  ∀ s : State,
    exec .engRsvd5 s = .refused (.reservedEngineState 5) ∧ exec .engRsvd6 s = .refused (.reservedEngineState 6) ∧
    exec .engRsvd7 s = .refused (.reservedEngineState 7)

/-! ### One cycle -/

/-- R141, R144, R100: a step in which the host presents `cmd:wdata` opens the cycle on its ports, runs the three units, the
engine's row and the decoded transaction, and closes the cycle; a step in which it presents nothing does so without a
transaction. That the rows run one after the other between `openCycle` and `closeCycle` is the model's choice (log 1). A
host move that a model refuses (R72, R73, R271; outside the window the model's choice, log 8) is the step's refusal. -/
def Obligations.StepRunsDecodedRows : Prop :=
  ∀ s : State,
    (∀ cmd w, s.host.move = .ok (.present cmd w) →
      step s =
        match runRows [.syncStep, .rduStep, .pinMux, decodeSelector (BitVec.ofBool s.regs.ctrlEn ++ s.regs.st.code), decodeBus cmd w]
          (s.openCycle (.present cmd w)) with
        | .next t => .next (t.closeCycle (.present cmd w))
        | .fault r => .fault r
        | .refused r => .refused r) ∧
    (s.host.move = .ok .quiet →
      step s =
        match runRows [.syncStep, .rduStep, .pinMux, decodeSelector (BitVec.ofBool s.regs.ctrlEn ++ s.regs.st.code)]
          (s.openCycle .quiet) with
        | .next t => .next (t.closeCycle .quiet)
        | .fault r => .fault r
        | .refused r => .refused r) ∧
    (∀ r, s.host.move = .error r → step s = .refused r)

/-- R141, R300: the block's step is total: whatever state it is in, a cycle with a legal move of the host answers a next
state, never a fault or a refusal. -/
def Obligations.StepIsTotal : Prop :=
  ∀ (s : State) (m : Move), s.host.move = .ok m → ∃ t, step s = .next t

/-- R144: everything in a cycle is computed from the pre-cycle state, so the order in which the rows contribute does not
matter (log 1). -/
def Obligations.RowOrderDoesNotMatter : Prop :=
  ∀ (s : State) (m : Move) (order : List Instr), order.Perm (s.rows m) →
    runRows order (s.openCycle m) = runRows (s.rows m) (s.openCycle m)

/-- R70, R72, R73: a host access in the window moves one aligned 32-bit word, or is refused. -/
def Obligations.WindowAccesses : Prop :=
  ∀ (s : State) (we : Bool) (addr size : Nat) (w : Word) (rest : List HostOp),
    s.Next (.mem we addr size w) rest → Config.baseAddr ≤ addr → addr < Config.baseAddr + 32 →
    (size ≠ 4 → step s = .refused .narrowAccess) ∧
    (size = 4 → addr % 4 ≠ 0 → step s = .refused .misalignedAccess) ∧
    (size = 4 → addr % 4 = 0 →
      s.Presents (BitVec.ofNat 3 ((addr - Config.baseAddr) / 4) ++ BitVec.ofBool we) w ∧ ∃ t, step s = .next t)

/-- R142: the outputs of a cycle, from the pre-cycle state and the cycle's inputs. -/
def Obligations.OutputEquations : Prop :=
  ∀ s t : State, step s = .next t →
    t.out.sck = (if s.regs.ctrlEn then s.regs.sckEng else s.regs.ctrlScksw) ∧
    t.out.irq = ((s.regs.rduFlag && s.regs.ieRdy) || (decide (s.regs.rxq.length ≠ 0) && s.regs.ieRxne)
      || (s.regs.toFlag && s.regs.ieTo)) ∧
    t.out.ack = (t.inp.rstN && t.inp.req && !(!t.inp.we && t.inp.off == 4#3 && s.regs.rxq.length == 0)) ∧
    t.out.rdata = (if t.inp.rstN && t.inp.req && !t.inp.we && t.out.ack then s.regs.readValue t.inp.off else 0#32)

/-- R54: the reset value of every element, entered in any cycle with `rst_n = 0`, and the lines and register words that
follow. -/
def Obligations.ResetValues : Prop :=
  (∀ (s : State) (m : Move), s.host.move = .ok m → s.env.rstN = false → ∃ t, step s = .next t ∧ t.regs = State.reset.regs) ∧
  State.reset.regs =
    { ctrlEn := false, ctrlWaitrdy := false, ctrlScksw := false, tHi := 1#8, tLo := 1#8
      ieRdy := false, ieRxne := false, ieTo := false, toFlag := false, txovfFlag := false
      rduArm := false, rduFlag := false, rduPrev := true, sync1 := true, sync2 := true
      txq := [], rxq := [], st := .idle, wcnt := 0#32, pcnt := 0#32, acc := 0#32, tcnt := 0#8, sckEng := false } ∧
  State.reset.regs.sckPin = false ∧ State.reset.regs.irqLevel = false ∧
  State.reset.regs.statusWord = 0x00001000#32 ∧ State.reset.regs.timingWord = 0x00000101#32

/-- R150, R32: a cycle with `rst_n = 0` ends in the reset state, whatever the state and the other inputs, and completes no
transaction; the clock line and the interrupt line of that cycle are those of the state. -/
def Obligations.ResetCycle : Prop :=
  ∀ (s : State) (m : Move), s.host.move = .ok m → s.env.rstN = false →
    ∃ t, step s = .next t ∧ t.regs = State.reset.regs ∧ t.out.ack = false ∧ t.out.rdata = 0#32 ∧
      t.out.sck = s.regs.sckPin ∧ t.out.irq = s.regs.irqLevel

/-- R145: the job FIFO and the overflow of every cycle outside reset; the engine has loaded the job it takes, whatever
the host does to the FIFO in the same cycle. -/
def Obligations.JobFifoCombination : Prop :=
  ∀ (s t : State) (m : Move), s.host.move = .ok m → s.Running → step s = .next t →
    let t0 := if s.regs.takesJob then s.regs.txq.drop 2 else s.regs.txq
    (∀ v, m = .present 0x1#4 v → t.regs.txq = (if v.getLsbD 3 then [] else t0)) ∧
    (∀ v, m = .present 0x7#4 v →
      (s.regs.txq.length < 4 → t.regs.txq = t0 ++ [v] ∧ t.regs.txovfFlag = s.regs.txovfFlag) ∧
      (4 ≤ s.regs.txq.length → t.regs.txq = t0 ∧ t.regs.txovfFlag = true)) ∧
    ((∀ v, m ≠ .present 0x1#4 v ∧ m ≠ .present 0x7#4 v) → t.regs.txq = t0) ∧
    (s.regs.takesJob = true → ∃ b p rest, s.regs.txq = b :: p :: rest ∧ t.regs.wcnt = b ∧ t.regs.pcnt = p)

/-- R146: the result FIFO of every cycle outside reset; the engine delivers only into a FIFO with room, a read meets no
empty FIFO, and the FIFO never exceeds four words. -/
def Obligations.ResultFifoCombination : Prop :=
  ∀ (s t : State) (m : Move), s.host.move = .ok m → s.Running → step s = .next t →
    let pushed := match s.regs.delivers with | some w => [w] | none => []
    (∀ v, m = .present 0x1#4 v → t.regs.rxq = (if v.getLsbD 4 then [] else s.regs.rxq ++ pushed)) ∧
    (∀ v, m = .present 0x8#4 v → t.regs.rxq = s.regs.rxq.tail ++ pushed) ∧
    ((∀ v, m ≠ .present 0x1#4 v ∧ m ≠ .present 0x8#4 v) → t.regs.rxq = s.regs.rxq ++ pushed) ∧
    (s.regs.delivers ≠ none → s.regs.rxq.length < 4) ∧
    (∀ v, m = .present 0x8#4 v → s.regs.rxq = [] → t.out.ack = false) ∧
    (s.regs.rxq.length ≤ 4 → t.regs.rxq.length ≤ 4)

/-- R147: a set of a sticky flag wins over a clear written in the same cycle. -/
def Obligations.StickyFlags : Prop :=
  ∀ (s t : State) (m : Move), s.host.move = .ok m → s.Running → step s = .next t →
    (∀ v, m = .present 0x3#4 v →
      t.regs.toFlag = (s.regs.timesOut || (s.regs.toFlag && !v.getLsbD 16)) ∧
      t.regs.txovfFlag = (s.regs.txovfFlag && !v.getLsbD 17)) ∧
    (∀ v, m = .present 0x7#4 v →
      t.regs.toFlag = (s.regs.timesOut || s.regs.toFlag) ∧
      t.regs.txovfFlag = (decide (4 ≤ s.regs.txq.length) || s.regs.txovfFlag)) ∧
    ((∀ v, m ≠ .present 0x3#4 v ∧ m ≠ .present 0x7#4 v) →
      t.regs.toFlag = (s.regs.timesOut || s.regs.toFlag) ∧ t.regs.txovfFlag = s.regs.txovfFlag)

/-- R148, R201, R202: the ready detector of every cycle outside reset, with a `WR_RDY` of `v` and without one. -/
def Obligations.ReadyDetectorCombination : Prop :=
  ∀ (s t : State) (m : Move), s.host.move = .ok m → s.Running → step s = .next t →
    let capture := s.regs.rduArm && (s.regs.rduPrev && !s.regs.sync2)
    t.regs.rduPrev = s.regs.sync2 ∧
    (∀ v, m = .present 0xB#4 v →
      let armcmd := v.getLsbD 0 && !v.getLsbD 1
      t.regs.rduArm = (if v.getLsbD 1 then false else if armcmd then true else if capture then false else s.regs.rduArm) ∧
      t.regs.rduFlag = (if armcmd then false else if capture then true else if v.getLsbD 2 then false else s.regs.rduFlag)) ∧
    ((∀ v, m ≠ .present 0xB#4 v) →
      t.regs.rduArm = (if capture then false else s.regs.rduArm) ∧
      t.regs.rduFlag = (if capture then true else s.regs.rduFlag))

/-- R200: the synchroniser of every cycle outside reset: the synchronised line shows the pin of two cycles earlier. -/
def Obligations.SynchroniserShifts : Prop :=
  ∀ s t : State, s.Running → step s = .next t →
    t.regs.sync1 = t.inp.pin ∧ t.regs.sync2 = s.regs.sync1 ∧
    ∀ u, t.Running → step t = .next u → u.regs.sync2 = t.inp.pin

/-- R161, R165, R173: a completing write of `CTRL`, `TIMING` or `IE` leaves the registers a silent host would have left,
but for the fields it stores and the FIFOs it flushes. -/
def Obligations.RegisterWriteFrame : Prop :=
  ∀ (s : State) (v : Word), s.Running →
    (s.Presents 0x1#4 v → ∃ t u, step s = .next t ∧ step s.hostSilent = .next u ∧ t.out.ack = true ∧
      t.regs = { u.regs with
        ctrlEn := v.getLsbD 0, ctrlWaitrdy := v.getLsbD 1, ctrlScksw := v.getLsbD 2
        txq := if v.getLsbD 3 then [] else u.regs.txq, rxq := if v.getLsbD 4 then [] else u.regs.rxq }) ∧
    (s.Presents 0x5#4 v → ∃ t u, step s = .next t ∧ step s.hostSilent = .next u ∧ t.out.ack = true ∧
      t.regs = { u.regs with tHi := v.extractLsb' 0 8, tLo := v.extractLsb' 8 8 }) ∧
    (s.Presents 0xD#4 v → ∃ t u, step s = .next t ∧ step s.hostSilent = .next u ∧ t.out.ack = true ∧
      t.regs = { u.regs with ieRdy := v.getLsbD 0, ieRxne := v.getLsbD 1, ieTo := v.getLsbD 2 })

/-- R163, R167, R171: a completing write of `STATUS`, `TXF` or `RDY` leaves the registers a silent host would have left,
but for the flags, the job FIFO, or the detector's two bits. -/
def Obligations.CommandWriteFrame : Prop :=
  ∀ (s : State) (v : Word), s.Running →
    (s.Presents 0x3#4 v → ∃ t u, step s = .next t ∧ step s.hostSilent = .next u ∧ t.out.ack = true ∧
      t.regs = { u.regs with
        toFlag := if v.getLsbD 16 then s.regs.timesOut else u.regs.toFlag
        txovfFlag := if v.getLsbD 17 then false else u.regs.txovfFlag }) ∧
    (s.Presents 0x7#4 v → ∃ t u, step s = .next t ∧ step s.hostSilent = .next u ∧ t.out.ack = true ∧
      t.regs = { u.regs with
        txq := if s.regs.txq.length < 4 then u.regs.txq ++ [v] else u.regs.txq
        txovfFlag := if s.regs.txq.length < 4 then u.regs.txovfFlag else true }) ∧
    (s.Presents 0xB#4 v → ∃ t u, step s = .next t ∧ step s.hostSilent = .next u ∧ t.out.ack = true ∧
      t.regs = { u.regs with rduArm := t.regs.rduArm, rduFlag := t.regs.rduFlag })

/-- R76, R77, R169, R175: a read of any register but `RXF`, and a write of `RXF` or of the reserved offset, leaves exactly
the registers a silent host would have left, and completes. -/
def Obligations.NoSideEffects : Prop :=
  ∀ (s : State) (cmd : Nibble) (v : Word), s.Running → s.Presents cmd v →
    cmd ∈ [0x0#4, 0x2#4, 0x4#4, 0x6#4, 0xA#4, 0xC#4, 0xE#4, 0x9#4, 0xF#4] →
    ∃ t u, step s = .next t ∧ step s.hostSilent = .next u ∧ t.out.ack = true ∧ t.regs = u.regs

/-- R168, R149: `RD_RXF` in a cycle outside reset: with a word waiting it returns the oldest, which alone is gone from
what a silent host would have left; with none it does not complete, and changes nothing. -/
def Obligations.ResultReadFrame : Prop :=
  ∀ (s : State) (v : Word), s.Running → s.Presents 0x8#4 v →
    ∃ t u, step s = .next t ∧ step s.hostSilent = .next u ∧
      (∀ w rest, s.regs.rxq = w :: rest →
        t.out.ack = true ∧ t.out.rdata = w ∧ t.regs = { u.regs with rxq := u.regs.rxq.tail }) ∧
      (s.regs.rxq = [] → t.out.ack = false ∧ t.regs = u.regs)

/-- R151: a transaction that did not complete is presented again in the next cycle, unchanged. -/
def Obligations.HeldTransactionRepeats : Prop :=
  ∀ (s t : State) (cmd : Nibble) (w : Word), s.Presents cmd w → step s = .next t → t.out.ack = false → t.Presents cmd w

/-- R35: the data line is read by the synchroniser's first stage only: two machines that differ in the data line alone
agree after a cycle on every register but `sync1`, and on every output. -/
def Obligations.PinReachesOnlySync1 : Prop :=
  ∀ (s t u : State) (data : List DataLine) (n : Nat), step s = .next t →
    step { s with env := { s.env with data := data }, cycle := n } = .next u →
    t.regs = { u.regs with sync1 := t.regs.sync1 } ∧ t.out = u.out

/-- R232, R144: whatever the host does in a cycle, the engine's own elements and the synchroniser go the same way. -/
def Obligations.EngineIgnoresTransactions : Prop :=
  ∀ (s t u : State) (h : HostAgent), step s = .next t → step { s with host := h } = .next u →
    t.regs.st = u.regs.st ∧ t.regs.wcnt = u.regs.wcnt ∧ t.regs.pcnt = u.regs.pcnt ∧ t.regs.acc = u.regs.acc ∧
    t.regs.tcnt = u.regs.tcnt ∧ t.regs.sckEng = u.regs.sckEng ∧ t.regs.sync1 = u.regs.sync1 ∧
    t.regs.sync2 = u.regs.sync2 ∧ t.regs.rduPrev = u.regs.rduPrev

/-- R204: the ready detector steps in every cycle whatever the engine does, and the engine neither reads nor writes it:
machines that differ in the detector alone agree on everything else after a cycle, and machines that differ in the
engine and its control bits alone agree on the detector. -/
def Obligations.DetectorAndEngineIndependent : Prop :=
  (∀ (s t u : State) (arm flag prev : Bool), step s = .next t →
    step { s with regs := { s.regs with rduArm := arm, rduFlag := flag, rduPrev := prev } } = .next u →
    t.regs = { u.regs with rduArm := t.regs.rduArm, rduFlag := t.regs.rduFlag, rduPrev := t.regs.rduPrev }) ∧
  (∀ (s t u : State) (en wr sck eng : Bool) (st : EngState) (w p a : Word) (c : Byte), step s = .next t →
    step { s with regs := { s.regs with
      ctrlEn := en, ctrlWaitrdy := wr, ctrlScksw := sck, sckEng := eng, st := st, wcnt := w, pcnt := p, acc := a, tcnt := c } } = .next u →
    t.regs.rduArm = u.regs.rduArm ∧ t.regs.rduFlag = u.regs.rduFlag ∧ t.regs.rduPrev = u.regs.rduPrev)

/-- R202, R205: a disarmed detector sets no flag and stays disarmed in every cycle in which the host does not arm it. -/
def Obligations.DisarmedStaysDisarmed : Prop :=
  ∀ (s t : State) (m : Move), s.host.move = .ok m → step s = .next t → s.regs.rduArm = false →
    (∀ v, m = .present 0xB#4 v → v.getLsbD 0 = false ∨ v.getLsbD 1 = true) →
    t.regs.rduArm = false ∧ (t.regs.rduFlag = true → s.regs.rduFlag = true)

/-- R229, R220: a cycle with `ctrl_en = 0` ends the job: the engine is in IDLE with its line low, no word is delivered, no
job word is taken, no timeout is recorded, and the counters and the accumulator hold. -/
def Obligations.StopAbortsJob : Prop :=
  ∀ s : State, s.Running → s.regs.ctrlEn = false →
    ∃ t, step s.hostSilent = .next t ∧ t.regs.st = .idle ∧ t.regs.sckEng = false ∧ t.regs.rxq = s.regs.rxq ∧
      t.regs.txq = s.regs.txq ∧ t.regs.toFlag = s.regs.toFlag ∧ t.regs.wcnt = s.regs.wcnt ∧ t.regs.pcnt = s.regs.pcnt ∧
      t.regs.acc = s.regs.acc ∧ t.regs.tcnt = s.regs.tcnt

/-! ### Invariants -/

/-- R45, R46, R52, R222: every step keeps the invariant: each FIFO within its four words and the engine's line high exactly
in HIGH. Its last clause, nothing proposed between cycles (`Settled`), is about the model's own fields and follows no rule
of the spec: it is the model's choice (log 1). -/
def Obligations.StepKeepsInvariant : Prop :=
  ∀ s t : State, s.Inv → step s = .next t → t.Inv

/-- The machine after reset meets the invariant: its clauses on the block's registers by R54, its clause on the model's own
fields (`Settled`) by the model's choice of their values at reset (log 1, log 16). -/
def Obligations.ResetMeetsInvariant : Prop := State.reset.Inv

/-- R153: a host held at `RD_RXF` with the result FIFO empty and the engine stopped is held for ever, resets included: a
hang, not a fault. -/
def Obligations.HungStaysHung : Prop :=
  ∀ s : State, s.Hung → ∀ k, ∃ t, core.run k s = .next t ∧ t.Hung

/-! ### The engine's runs -/

/-- R223: from HIGH the engine stays there for `tcnt` more cycles, its line unchanged, and is in LOW in the cycle after, line
low, with the low half-period loaded, whatever the host does on the bus but write `CTRL` or `TIMING`; entered with
`tcnt = t_hi` HIGH lasts `t_hi + 1` cycles. -/
def Obligations.HighHalfPeriod : Prop :=
  ∀ s : State, s.regs.ctrlEn = true → s.regs.st = .high → s.Regular (s.regs.tcnt.toNat + 1) →
    (∀ k, k ≤ s.regs.tcnt.toNat → ∃ t, core.run k s = .next t ∧ t.regs.st = .high ∧
      t.regs.tcnt.toNat = s.regs.tcnt.toNat - k ∧ t.regs.sckEng = s.regs.sckEng) ∧
    ∃ t, core.run (s.regs.tcnt.toNat + 1) s = .next t ∧ t.regs.st = .low ∧ t.regs.tcnt = s.regs.tLo ∧ t.regs.sckEng = false

/-- R224, R225: from LOW the engine stays there for `tcnt` more cycles without a sample, and in the cycle after it has
shifted in exactly one, whatever the host does on the bus but write `CTRL` or `TIMING`; entered with `tcnt = t_lo` LOW lasts
`t_lo + 1` cycles. -/
def Obligations.LowHalfPeriod : Prop :=
  ∀ s : State, s.regs.ctrlEn = true → s.regs.st = .low → s.Regular (s.regs.tcnt.toNat + 1) →
    (∀ k, k ≤ s.regs.tcnt.toNat → ∃ t, core.run k s = .next t ∧ t.regs.st = .low ∧
      t.regs.tcnt.toNat = s.regs.tcnt.toNat - k ∧ t.regs.acc = s.regs.acc ∧ t.regs.sckEng = s.regs.sckEng) ∧
    ∃ t u, core.run s.regs.tcnt.toNat s = .next t ∧ t.regs.st = .low ∧ t.regs.acc = s.regs.acc ∧
      core.run (s.regs.tcnt.toNat + 1) s = .next u ∧ u.regs.acc = shiftIn s.regs.acc t.regs.sync2 ∧
      (s.regs.pcnt = 0#32 → u.regs.st = .push ∧ u.regs.sckEng = t.regs.sckEng) ∧
      (s.regs.pcnt ≠ 0#32 → u.regs.st = .high ∧ u.regs.sckEng = true ∧ u.regs.tcnt = s.regs.tHi ∧ u.regs.pcnt = s.regs.pcnt - 1#32)

/-- R231, R227, R232: a pulse train of `N = PULSES + 1` pulses: in its first `N (H + L)` cycles the clock line is high
exactly in the first `H` cycles of each pulse, whatever the host does on the bus but write `CTRL` or `TIMING`. -/
def Obligations.TrainWaveform : Prop :=
  ∀ s : State, s.Inv → s.regs.ctrlEn = true → s.regs.st = .high → s.regs.tcnt = s.regs.tHi →
    ∀ j, j < pulsesOf s.regs.pcnt * s.regs.pulseCycles → s.Regular j →
      ∃ t, core.run j s = .next t ∧ t.regs.sckPin = decide (j % s.regs.pulseCycles < s.regs.highCycles)

/-- R227, R225, R226: after the train the engine is in PUSH with the line low, and the accumulator has shifted in one sample
per pulse, the synchronised data line of each pulse's last cycle, whatever the host does on the bus but write `CTRL` or
`TIMING`. -/
def Obligations.TrainSamplesEachPulse : Prop :=
  ∀ (s : State) (levels : List Bool), s.regs.ctrlEn = true → s.regs.st = .high → s.regs.tcnt = s.regs.tHi →
    s.Line levels → pulsesOf s.regs.pcnt * s.regs.pulseCycles ≤ levels.length + 2 →
    s.Regular (pulsesOf s.regs.pcnt * s.regs.pulseCycles) →
    ∃ t, core.run (pulsesOf s.regs.pcnt * s.regs.pulseCycles) s = .next t ∧ t.regs.st = .push ∧ t.regs.sckEng = false ∧
      t.regs.pcnt = 0#32 ∧ (s.Quiet → t.regs.rxq = s.regs.rxq) ∧
      t.regs.acc = accumulate s.regs.acc
        (sampled (s.regs.sync2 :: s.regs.sync1 :: levels) s.regs.pulseCycles (pulsesOf s.regs.pcnt))

/-- R346, R226, R221, R228: a hybrid job loaded in cycle `t0` is in PUSH in cycle `t0 + 1 + N (H + L)` with the samples of its
pulses, the first the most significant, whatever the host does on the bus but write `CTRL` or `TIMING`; the word is in
`rxq` in the cycle after, or PUSH holds it where `rxq` is full. -/
def Obligations.HybridJobDelivers : Prop :=
  ∀ (s : State) (levels : List Bool) (b p : Word) (rest : List Word), s.regs.ctrlEn = true →
    s.regs.ctrlWaitrdy = false → s.regs.st = .idle → s.regs.txq = b :: p :: rest →
    s.Line levels → pulsesOf p * s.regs.pulseCycles ≤ levels.length + 1 →
    let word := accumulate 0#32 (sampled (s.regs.sync1 :: levels) s.regs.pulseCycles (pulsesOf p))
    let n := 1 + pulsesOf p * s.regs.pulseCycles
    s.Regular (n + 1) →
    ∃ u t, core.run n s = .next u ∧ u.regs.st = .push ∧ u.regs.acc = word ∧ rest <+: u.regs.txq ∧
      core.run (n + 1) s = .next t ∧
      (u.regs.rxq.length < 4 → t.regs.st = .idle ∧ t.regs.rxq.getLast? = some word) ∧
      (4 ≤ u.regs.rxq.length → t.regs.st = .push ∧ t.regs.acc = word) ∧
      (s.Quiet → s.regs.rxq.length < 4 → t.regs.st = .idle ∧ t.regs.txq = rest ∧ t.regs.rxq = s.regs.rxq ++ [word])

/-- R346, R206, R228: a self-contained job whose poll first sees the line low in the cycle `w` after its load, within its
budget, is in PUSH in cycle `w + 1 + N (H + L)` with the samples of its pulses, whatever the host does on the bus but write
`CTRL` or `TIMING`; the word is in `rxq` in the cycle after, or PUSH holds it where `rxq` is full. -/
def Obligations.SelfContainedJobDelivers : Prop :=
  ∀ (s : State) (levels : List Bool) (b p : Word) (rest : List Word) (w : Nat), s.regs.ctrlEn = true →
    s.regs.ctrlWaitrdy = true → s.regs.st = .idle → s.regs.txq = b :: p :: rest →
    s.Line levels → w + pulsesOf p * s.regs.pulseCycles ≤ levels.length + 1 → 1 ≤ w → w ≤ b.toNat + 1 →
    (∀ j, 1 ≤ j → j < w → (s.regs.sync2 :: s.regs.sync1 :: levels)[j]? = some true) →
    (s.regs.sync2 :: s.regs.sync1 :: levels)[w]? = some false →
    let word := accumulate 0#32
      (sampled ((s.regs.sync2 :: s.regs.sync1 :: levels).drop (w + 1)) s.regs.pulseCycles (pulsesOf p))
    let n := w + 1 + pulsesOf p * s.regs.pulseCycles
    s.Regular (n + 1) →
    ∃ u t, core.run n s = .next u ∧ u.regs.st = .push ∧ u.regs.acc = word ∧ rest <+: u.regs.txq ∧
      core.run (n + 1) s = .next t ∧
      (u.regs.rxq.length < 4 → t.regs.st = .idle ∧ t.regs.rxq.getLast? = some word) ∧
      (4 ≤ u.regs.rxq.length → t.regs.st = .push ∧ t.regs.acc = word) ∧
      (s.Quiet → s.regs.rxq.length < 4 →
        t.regs.st = .idle ∧ t.regs.txq = rest ∧ t.regs.toFlag = s.regs.toFlag ∧ t.regs.rxq = s.regs.rxq ++ [word])

/-- R207, R302: a self-contained job with budget `B` on a line that stays high polls in cycles 1 to `B + 1` after its load
and is in PUSH with `to_flag` set in cycle `B + 2`, whatever the host does on the bus but write `CTRL` or `TIMING`; the
sentinel is in `rxq` in cycle `B + 3`, or PUSH holds it where `rxq` is full. -/
def Obligations.TimeoutCount : Prop :=
  ∀ (s : State) (b p : Word) (rest : List Word), s.regs.ctrlEn = true → s.regs.ctrlWaitrdy = true →
    s.regs.st = .idle → s.regs.txq = b :: p :: rest → s.regs.sync1 = true →
    s.Line (List.replicate b.toNat true) → s.Regular (b.toNat + 3) →
    (∀ k, 1 ≤ k → k ≤ b.toNat + 1 → ∃ t, core.run k s = .next t ∧ t.regs.st = .wait ∧
      t.regs.wcnt.toNat = b.toNat + 1 - k ∧ (s.Quiet → t.regs.toFlag = s.regs.toFlag)) ∧
    ∃ u t, core.run (b.toNat + 2) s = .next u ∧ u.regs.st = .push ∧ u.regs.toFlag = true ∧ u.regs.acc = 0xFFFFFFFF#32 ∧
      core.run (b.toNat + 3) s = .next t ∧
      (u.regs.rxq.length < 4 → t.regs.st = .idle ∧ t.regs.rxq.getLast? = some 0xFFFFFFFF#32) ∧
      (4 ≤ u.regs.rxq.length → t.regs.st = .push ∧ t.regs.acc = 0xFFFFFFFF#32) ∧
      (s.Quiet → u.regs.rxq = s.regs.rxq ∧ t.regs.toFlag = true ∧
        (s.regs.rxq.length < 4 → t.regs.st = .idle ∧ t.regs.rxq = s.regs.rxq ++ [0xFFFFFFFF#32]))

/-! ### Result words -/

/-- R113, R226: bit `k` of the raw word of `N` pulses is the bit of pulse `N - k` for `k < min(N, 32)`, and 0 above; with at
most 31 pulses bit 31 is clear and the word is not the sentinel, and with 32 or more it can be. -/
def Obligations.RawWordBits : Prop :=
  (∀ (bits : List Bool) (k : Nat), k < 32 →
    (accumulate 0#32 bits).getLsbD k = if k < bits.length then bits.getD (bits.length - 1 - k) false else false) ∧
  (∀ bits : List Bool, bits.length ≤ 31 →
    isSentinel (accumulate 0#32 bits) = false ∧ (accumulate 0#32 bits).getLsbD 31 = false) ∧
  ∀ n, 32 ≤ n → ∃ bits : List Bool, bits.length = n ∧ accumulate 0#32 bits = 0xFFFFFFFF#32

/-- R274, R275: `Decode` is the two's-complement reading of the low 24 bits above the mode bits, in the range of `read()`,
with the document's three boundary values; for a raw word of `24 + mode` pulses the mask changes nothing. -/
def Obligations.DecodeIsSignExtension : Prop :=
  ∀ (w : Word) (m : Mode),
    let x := (w >>> m.toNat).extractLsb' 0 24
    decodeResult w m = (if x.toNat > 0x7FFFFF then (x.toNat : Int) - 0x1000000 else x.toNat) ∧ decodeResult w m = x.toInt ∧
    -8388608 ≤ decodeResult w m ∧ decodeResult w m ≤ 8388607 ∧ (x = 0x7FFFFF#24 → decodeResult w m = 8388607) ∧
    (x = 0x800000#24 → decodeResult w m = -8388608) ∧ (x = 0xFFFFFF#24 → decodeResult w m = -1) ∧
    (w.toNat < 2 ^ (24 + m.toNat) → (w >>> m.toNat).toNat ≤ 0xFFFFFF)

/-- R276: for a train that carries the 24 bits `d`, then one bit per mode pulse, `Decode` returns the signed value of `d`,
the first bit clocked out being the sign bit. -/
def Obligations.DecodeReadsChipBits : Prop :=
  ∀ (m : Mode) (d e : List Bool), d.length = 24 → e.length = m.toNat →
    decodeResult (accumulate 0#32 (d ++ e)) m = ((accumulate 0#32 d).extractLsb' 0 24).toInt

/-! ### The host's side -/

/-- R120: the transaction each pseudo-instruction presents, with `ctrlv` the host's copy of CTRL bits 2:0, and the second
word of `submit`; a completed write of `CTRL` makes `ctrlv` bits 2:0 of what it wrote, and a completed transaction of any
other kind leaves it. -/
def Obligations.PseudoInstructions : Prop :=
  (∀ (h : HostAgent) (b p : Word),
    let c : Word := h.ctrlv.setWidth 32
    let presents (q : Pseudo) (cmd : Nibble) (v : Word) : Prop := HostOp.move h (.pseudo q) = .ok (.present cmd v)
    presents .start 0x1#4 (c ||| 0x1#32) ∧ presents .stop 0x1#4 (c &&& ~~~0x1#32) ∧
    presents (.submit b p) 0x7#4 b ∧ (HostOp.pseudo (.submit b p)).after = [.bus 0x7#4 p] ∧
    HostOp.move h (.bus 0x7#4 p) = .ok (.present 0x7#4 p) ∧
    presents .getres 0x8#4 0#32 ∧ presents .arm 0xB#4 0x1#32 ∧ presents .disarm 0xB#4 0x2#32 ∧ presents .clrrdy 0xB#4 0x4#32 ∧
    presents .sckhi 0x1#4 ((c &&& ~~~0x1#32) ||| 0x4#32) ∧ presents .scklo 0x1#4 (c &&& ~~~0x5#32) ∧
    presents .flush 0x1#4 (c ||| 0x18#32) ∧ presents .clrto 0x3#4 0x00010000#32) ∧
  (∀ (s t : State) (op : HostOp) (rest : List HostOp) (cmd : Nibble) (v : Word), s.Next op rest → s.Presents cmd v →
    step s = .next t → t.out.ack = true →
    t.host.prog = op.after ++ rest ∧ t.host.ctrlv = if cmd = 0x1#4 then v.extractLsb' 0 3 else s.host.ctrlv)

/-- R270: `set_mode` takes a valid mode and starts the two warm-up reads, and silently ignores any other value. That the
call itself takes one cycle with no transaction is the model's choice (log 9). -/
def Obligations.SetModeIgnoresInvalid : Prop :=
  ∀ (s : State) (m : Int) (rest : List HostOp), s.Next (.setMode m) rest →
    ∃ t, step s = .next t ∧ t.out.ack = false ∧
      (m = 1 ∨ m = 2 ∨ m = 3 → (t.host.mode.toNat : Int) = m ∧
        t.host.prog = [.readBody, .discard, .readBody, .discard, .ret] ++ rest) ∧
      (¬ (m = 1 ∨ m = 2 ∨ m = 3) → t.host = { s.host with prog := rest })

/-- R271, R332, R270: a construction with a valid mode takes it and starts the two warm-up reads; one with another is
refused. That the construction itself takes one cycle with no transaction is the model's choice (log 9). -/
def Obligations.ConstructionChecksMode : Prop :=
  ∀ (s : State) (b : Backend) (m : Int) (rest : List HostOp), s.Next (.construct b m) rest →
    (m = 1 ∨ m = 2 ∨ m = 3 → ∃ t, step s = .next t ∧ (t.host.mode.toNat : Int) = m ∧ t.host.backend = b ∧
      t.host.prog = [.readBody, .discard, .readBody, .discard, .ret] ++ rest) ∧
    (¬ (m = 1 ∨ m = 2 ∨ m = 3) → step s = .refused .invalidInitialMode)

/-- R272, R277, R278, R279, R209, R274: what `read()` unfolds into for each backend, with the pulse count `24 + mode`; what
the bit-bang loop unfolds into with pulses to go and with none; and what the items between the transactions do. That a
call, a loop test or such an item takes one cycle with no transaction is the model's choice (log 9). -/
def Obligations.ReadSequences : Prop :=
  (∀ (s : State) (rest : List HostOp), s.Next .read rest →
    ∃ t, step s = .next t ∧ t.host = { s.host with prog := .readBody :: .ret :: rest }) ∧
  (∀ (s : State) (rest : List HostOp), s.Next .readBody rest → ∃ t, step s = .next t ∧
    (∀ budget, s.host.backend = .selfContained budget → t.host.prog =
      [.pseudo (.submit budget (BitVec.ofNat 32 (23 + s.host.mode.toNat))), .pseudo .getres, .sentinelTest, .decodeWord] ++ rest) ∧
    (s.host.backend = .hybrid → t.host.prog =
      [.pseudo .arm, .bus 0xA#4 0#32, .readyTest 499,
        .pseudo (.submit 0#32 (BitVec.ofNat 32 (23 + s.host.mode.toNat))), .pseudo .getres, .decodeWord] ++ rest) ∧
    (∀ gh gs, s.host.backend = .bitBang gh gs → t.host.prog =
      [.pseudo .arm, .bus 0xA#4 0#32, .readyTest 499, .clearAcc, .pulses (24 + s.host.mode.toNat)] ++ rest)) ∧
  (∀ (s : State) (gh gs left : Nat) (rest : List HostOp), s.Next (.pulses left) rest → s.host.backend = .bitBang gh gs →
    ∃ t, step s = .next t ∧ t.host = { s.host with
      prog :=
        (if left = 0 then [.decodeAcc]
         else [.maskInts, .pseudo .sckhi, .idle gh, .pseudo .scklo, .restoreInts, .idle gs, .bus 0x2#4 0#32, .shiftIn,
           .pulses (left - 1)]) ++ rest }) ∧
  (∀ (s : State) (op : HostOp) (rest : List HostOp), s.Next op rest →
    let goesOn (h : HostAgent) : Prop := ∃ t, step s = .next t ∧ t.host = { h with prog := rest }
    (op = .clearAcc → goesOn { s.host with acc := 0#32 }) ∧
    (op = .maskInts → goesOn { s.host with ints := false, savedInts := s.host.ints }) ∧
    (op = .restoreInts → goesOn { s.host with ints := s.host.savedInts }) ∧
    (op = .shiftIn → goesOn { s.host with
      acc := (s.host.acc <<< 1) ||| BitVec.setWidth 32 (BitVec.ofBool (s.host.rdata.getLsbD 12)) }) ∧
    (op = .decodeAcc → goesOn { s.host with result := some (.value (decodeResult s.host.acc s.host.mode)) }) ∧
    (op = .decodeWord → goesOn { s.host with result := some (.value (decodeResult s.host.rdata s.host.mode)) }) ∧
    (op = .discard → goesOn { s.host with result := none }) ∧
    ∀ n, op = .idle (n + 1) → ∃ t, step s = .next t ∧ t.host = { s.host with prog := .idle n :: rest })

/-- R209, R283: a poll of the ready flag ends the wait with a DISARM on the flag; without it the host sleeps and polls again,
or after its last poll sleeps, disarms and raises `SensorTimeout` (what the raise does, SentinelRaisesTimeout states). That
the test takes one cycle (log 9) and how many cycles the 1 ms of `sleepMs` are (log 12) are the model's choices. -/
def Obligations.ReadyWaitPolls : Prop :=
  ∀ (s : State) (left : Nat) (rest : List HostOp), s.Next (.readyTest left) rest → ∃ t, step s = .next t ∧
    t.host.result = s.host.result ∧
    (s.host.rdata.getLsbD 1 = true → t.host.prog = .pseudo .disarm :: rest) ∧
    (s.host.rdata.getLsbD 1 = false → left = 0 → t.host.prog = [sleepMs, .pseudo .disarm, .raiseTimeout] ++ rest) ∧
    (s.host.rdata.getLsbD 1 = false → left ≠ 0 →
      t.host.prog = [sleepMs, .bus 0xA#4 0#32, .readyTest (left - 1)] ++ rest)

/-- R273, R209, R283: the sentinel, and the software path's exhausted ready wait, raise `SensorTimeout`, which drops the rest
of the driver call and nothing behind it; a word other than the sentinel goes on. That the raise drops the whole rest of
the call, a second warm-up read too, is inferred (log 14), and that the test takes one cycle is the model's choice
(log 9). -/
def Obligations.SentinelRaisesTimeout : Prop :=
  ∀ (s : State) (call rest : List HostOp), .ret ∉ call →
    (s.Next .sentinelTest (call ++ .ret :: rest) → ∃ t, step s = .next t ∧
      (s.host.rdata = 0xFFFFFFFF#32 → t.host = { s.host with result := some .sensorTimeout, prog := rest }) ∧
      (s.host.rdata ≠ 0xFFFFFFFF#32 → t.host = { s.host with prog := call ++ .ret :: rest })) ∧
    (s.Next .raiseTimeout (call ++ .ret :: rest) →
      ∃ t, step s = .next t ∧ t.host = { s.host with result := some .sensorTimeout, prog := rest })
end

