-- ==== Sys2Proof/Laws/State.lean ====
section
/-! SUPPORT. One lemma per field for each update of the state that a row's meaning makes, so that no later proof
unfolds a record update. -/

namespace Sys2Proof.Machine

variable (s : State) (r : Regs) (q : Requests) (b ack : Bool) (w : Word)

@[simp] theorem State.setNxt_regs : (s.setNxt r).regs = s.regs := rfl
@[simp] theorem State.setNxt_nxt : (s.setNxt r).nxt = r := rfl
@[simp] theorem State.setNxt_req : (s.setNxt r).req = s.req := rfl
@[simp] theorem State.setNxt_inp : (s.setNxt r).inp = s.inp := rfl
@[simp] theorem State.setNxt_out : (s.setNxt r).out = s.out := rfl
@[simp] theorem State.setNxt_host : (s.setNxt r).host = s.host := rfl
@[simp] theorem State.setNxt_env : (s.setNxt r).env = s.env := rfl
@[simp] theorem State.setNxt_cycle : (s.setNxt r).cycle = s.cycle := rfl

@[simp] theorem State.setReq_regs : (s.setReq q).regs = s.regs := rfl
@[simp] theorem State.setReq_nxt : (s.setReq q).nxt = s.nxt := rfl
@[simp] theorem State.setReq_req : (s.setReq q).req = q := rfl
@[simp] theorem State.setReq_inp : (s.setReq q).inp = s.inp := rfl
@[simp] theorem State.setReq_out : (s.setReq q).out = s.out := rfl
@[simp] theorem State.setReq_host : (s.setReq q).host = s.host := rfl
@[simp] theorem State.setReq_env : (s.setReq q).env = s.env := rfl
@[simp] theorem State.setReq_cycle : (s.setReq q).cycle = s.cycle := rfl

@[simp] theorem State.setSck_regs : (s.setSck b).regs = s.regs := rfl
@[simp] theorem State.setSck_nxt : (s.setSck b).nxt = s.nxt := rfl
@[simp] theorem State.setSck_req : (s.setSck b).req = s.req := rfl
@[simp] theorem State.setSck_inp : (s.setSck b).inp = s.inp := rfl
@[simp] theorem State.setSck_out : (s.setSck b).out = { s.out with sck := b } := rfl
@[simp] theorem State.setSck_host : (s.setSck b).host = s.host := rfl
@[simp] theorem State.setSck_env : (s.setSck b).env = s.env := rfl
@[simp] theorem State.setSck_cycle : (s.setSck b).cycle = s.cycle := rfl

@[simp] theorem State.setBus_regs : (s.setBus ack w).regs = s.regs := rfl
@[simp] theorem State.setBus_nxt : (s.setBus ack w).nxt = s.nxt := rfl
@[simp] theorem State.setBus_req : (s.setBus ack w).req = s.req := rfl
@[simp] theorem State.setBus_inp : (s.setBus ack w).inp = s.inp := rfl
@[simp] theorem State.setBus_out : (s.setBus ack w).out = { s.out with ack := ack, rdata := w } := rfl
@[simp] theorem State.setBus_host : (s.setBus ack w).host = s.host := rfl
@[simp] theorem State.setBus_env : (s.setBus ack w).env = s.env := rfl
@[simp] theorem State.setBus_cycle : (s.setBus ack w).cycle = s.cycle := rfl

end Sys2Proof.Machine
end

