-- ==== Sys2Proof/Laws/Cycle.lean ====
section
/-! SUPPORT. What one step can do, said once: the engine's and the host's contributions as functions of the pre-cycle
registers, and the closed form of a cycle (`step_of_move`), which later proofs cite instead of unfolding the rows. -/

namespace Sys2Proof.Machine

/-! ### The engine's contribution -/

/-- The registers the engine proposes, the other elements being those of `nxt`. -/
def engineNxt (r nxt : Regs) : Regs :=
  match r.ctrlEn, r.st with
  | false, _ => { nxt with st := .idle, sckEng := false }
  | true, .idle =>
    match r.txq with
    | b :: p :: _ =>
      if r.ctrlWaitrdy then { nxt with wcnt := b, pcnt := p, acc := 0#32, st := .wait }
      else { nxt with wcnt := b, pcnt := p, acc := 0#32, st := .high, sckEng := true, tcnt := r.tHi }
    | _ => nxt
  | true, .wait =>
    if r.sync2 = false then { nxt with st := .high, sckEng := true, tcnt := r.tHi }
    else if r.wcnt = 0#32 then { nxt with acc := Config.sentinel, st := .push }
    else { nxt with wcnt := r.wcnt - 1#32 }
  | true, .high =>
    if r.tcnt ≠ 0#8 then { nxt with tcnt := r.tcnt - 1#8 } else { nxt with sckEng := false, tcnt := r.tLo, st := .low }
  | true, .low =>
    if r.tcnt ≠ 0#8 then { nxt with tcnt := r.tcnt - 1#8 }
    else if r.pcnt = 0#32 then { nxt with acc := shiftIn r.acc r.sync2, st := .push }
    else
      { nxt with acc := shiftIn r.acc r.sync2, pcnt := r.pcnt - 1#32, st := .high, sckEng := true, tcnt := r.tHi }
  | true, .push => if r.rxq.length < Config.rxDepth then { nxt with st := .idle } else nxt

/-- The requests the engine makes, the other ones being those of `q`. -/
def engineReq (r : Regs) (q : Requests) : Requests :=
  match r.ctrlEn, r.st with
  | true, .idle => if 2 ≤ r.txq.length then { q with engPop2 := true } else q
  | true, .wait => if r.sync2 = true ∧ r.wcnt = 0#32 then { q with engTo := true } else q
  | true, .push => if r.rxq.length < Config.rxDepth then { q with engPush := some r.acc } else q
  | _, _ => q

theorem decodeSelector_stopped : ∀ code : BitVec 3, decodeSelector (bit1 false ++ code) = .engStopped code := by decide

theorem engineRow_stopped {r : Regs} (h : r.ctrlEn = false) : r.engineRow = .engStopped r.st.code := by
  rw [Regs.engineRow, Regs.selector, h, decodeSelector_stopped]

/-- The row that a running engine is selected by. -/
def EngState.row : EngState → Instr
  | .idle => .engIdle
  | .wait => .engWait
  | .high => .engHigh
  | .low => .engLow
  | .push => .engPush

theorem decodeSelector_running (st : EngState) : decodeSelector (bit1 true ++ st.code) = st.row := by cases st <;> decide

theorem engineRow_running {r : Regs} (h : r.ctrlEn = true) : r.engineRow = r.st.row := by
  rw [Regs.engineRow, Regs.selector, h, decodeSelector_running]

/-- The engine's row always answers a next state, in which only the engine's own proposals are new. -/
theorem exec_engineRow (s : State) :
    exec s.regs.engineRow s = .next ((s.setNxt (engineNxt s.regs s.nxt)).setReq (engineReq s.regs s.req)) := by
  cases hen : s.regs.ctrlEn
  · rw [engineRow_stopped hen]
    simp [exec, execEngStopped, engineNxt, engineReq, hen, State.setNxt, State.setReq]
  · rw [engineRow_running hen]
    cases hst : s.regs.st <;> simp only [EngState.row, exec, engineNxt, engineReq, hen, hst]
    · unfold execEngIdle
      rcases htx : s.regs.txq with _ | ⟨b, _ | ⟨p, rest⟩⟩ <;> simp [State.setNxt, State.setReq, Regs.enterHigh]
    · unfold execEngWait
      split
      · simp_all [State.setNxt, State.setReq, Regs.enterHigh]
      · split <;> simp_all [State.setNxt, State.setReq]
    · unfold execEngHigh
      split <;> simp [State.setNxt, State.setReq]
    · unfold execEngLow
      split
      · simp [State.setNxt, State.setReq]
      · split <;> simp [State.setNxt, State.setReq, Regs.enterHigh]
    · unfold execEngPush
      split <;> simp [State.setNxt, State.setReq]

/-! ### The host's contribution -/

/-- The registers a completing move proposes, the other elements being those of `nxt`. -/
def moveNxt (nxt : Regs) : Move → Regs
  | .quiet => nxt
  | .present cmd v =>
    if cmd = 0x1#4 then nxt.withCtrl v else if cmd = 0x5#4 then nxt.withTiming v
    else if cmd = 0xD#4 then nxt.withIe v else nxt

/-- The requests a completing move makes, the other ones being those of `q`. -/
def moveReq (q : Requests) : Move → Requests
  | .quiet => q
  | .present cmd v =>
    if cmd = 0x1#4 then q.withCtrl v else if cmd = 0x3#4 then q.withStatus v else if cmd = 0x7#4 then q.withTxf v
    else if cmd = 0x8#4 then { q with hPop := true } else if cmd = 0xB#4 then q.withRdy v else q

/-- Whether a move completes while the block is not in reset (R149). -/
def moveAck (r : Regs) : Move → Bool
  | .quiet => false
  | .present cmd _ => !(cmd == 0x8#4 && r.rxq.isEmpty)

/-- What a completing move returns on `rdata` (R142). -/
def moveRdata (r : Regs) : Move → Word
  | .quiet => 0#32
  | .present cmd _ => if cmd.getLsbD 0 then 0#32 else r.readValue (cmd.extractLsb' 1 3)

/-- Every command is one of the sixteen (R102). -/
theorem nibble_cases (P : Nibble → Prop) (h0 : P 0x0#4) (h1 : P 0x1#4) (h2 : P 0x2#4) (h3 : P 0x3#4) (h4 : P 0x4#4)
    (h5 : P 0x5#4) (h6 : P 0x6#4) (h7 : P 0x7#4) (h8 : P 0x8#4) (h9 : P 0x9#4) (hA : P 0xA#4) (hB : P 0xB#4)
    (hC : P 0xC#4) (hD : P 0xD#4) (hE : P 0xE#4) (hF : P 0xF#4) : ∀ cmd, P cmd := by
  intro cmd
  obtain ⟨⟨n, hn⟩⟩ := cmd
  interval_cases n
  exacts [h0, h1, h2, h3, h4, h5, h6, h7, h8, h9, hA, hB, hC, hD, hE, hF]

/-- A transaction's row always answers a next state: where it completes, with the host's proposals and the answer; where
it does not, with the answer `ack = 0` alone. -/
theorem exec_decodeBus (s : State) (cmd : Nibble) (v : Word) :
    exec (decodeBus cmd v) s = .next
      (if s.inp.rstN && moveAck s.regs (.present cmd v) then
        (((s.setBus true (moveRdata s.regs (.present cmd v))).setNxt (moveNxt s.nxt (.present cmd v))).setReq
          (moveReq s.req (.present cmd v)))
      else s.setBus false 0#32) := by
  have key : ∀ cmd : Nibble, ∀ v, exec (decodeBus cmd v) s = .next
      (if s.inp.rstN && moveAck s.regs (.present cmd v) then
        (((s.setBus true (moveRdata s.regs (.present cmd v))).setNxt (moveNxt s.nxt (.present cmd v))).setReq
          (moveReq s.req (.present cmd v)))
      else s.setBus false 0#32) := by
    cases hr : s.inp.rstN <;> cases hq : s.regs.rxq <;>
      (apply nibble_cases <;> intro v <;>
        simp [decodeBus, exec, execRdCtrl, execWrCtrl, execRdStatus, execWrStatus, execRdTiming, execWrTiming, execRdTxf,
          execWrTxf, execRdRxf, execWrRxf, execRdRdy, execWrRdy, execRdIe, execWrIe, execRdRsvd, execWrRsvd,
          State.readOp, State.writeOp, State.holdOp, State.setBus, State.setNxt, State.setReq, moveAck, moveRdata, moveNxt,
          moveReq, Regs.readValue, hr, hq])
  exact key cmd v

/-! ### One cycle -/

/-- The registers proposed in a cycle that is not a reset cycle: the units', the engine's and the host's proposals. -/
def proposedRegs (r : Regs) (m : Move) (pin : Bool) : Regs :=
  let u := engineNxt r { r with sync1 := pin, sync2 := r.sync1, rduPrev := r.sync2 }
  if moveAck r m then moveNxt u m else u

/-- The requests made in a cycle that is not a reset cycle. -/
def proposedReq (r : Regs) (m : Move) : Requests :=
  let q := engineReq r { Requests.empty with capture := r.captured }
  if moveAck r m then moveReq q m else q

/-- The registers after a cycle that is not a reset cycle (R144 to R148). -/
def nextRegs (r : Regs) (m : Move) (pin : Bool) : Regs := combine r (proposedRegs r m pin) (proposedReq r m)

/-- The closed form of a cycle. -/
def cycleResult (s : State) (m : Move) : State :=
  let rstN := s.env.rstN
  let pin := s.env.pin s.cycle
  let r' := if rstN then nextRegs s.regs m pin else Regs.reset
  let ack := rstN && moveAck s.regs m
  let rdata := if ack then moveRdata s.regs m else 0#32
  { regs := r'
    nxt := r'
    req := Requests.empty
    inp := inputsOf m rstN pin
    out := { sck := s.regs.sckPin, irq := s.regs.irqLevel, ack := ack, rdata := rdata }
    host := s.host.advance m ack rdata
    env := s.env.advance
    cycle := s.cycle + 1 }

@[simp] theorem inputsOf_rstN (m : Move) (a b : Bool) : (inputsOf m a b).rstN = a := by cases m <;> rfl
@[simp] theorem inputsOf_pin (m : Move) (a b : Bool) : (inputsOf m a b).pin = b := by cases m <;> rfl

@[simp] theorem State.openCycle_regs (s : State) (m : Move) : (s.openCycle m).regs = s.regs := rfl
@[simp] theorem State.openCycle_nxt (s : State) (m : Move) : (s.openCycle m).nxt = s.regs := rfl
@[simp] theorem State.openCycle_req (s : State) (m : Move) : (s.openCycle m).req = Requests.empty := rfl
@[simp] theorem State.openCycle_inp (s : State) (m : Move) :
    (s.openCycle m).inp = inputsOf m s.env.rstN (s.env.pin s.cycle) := rfl
@[simp] theorem State.openCycle_host (s : State) (m : Move) : (s.openCycle m).host = s.host := rfl
@[simp] theorem State.openCycle_env (s : State) (m : Move) : (s.openCycle m).env = s.env := rfl
@[simp] theorem State.openCycle_cycle (s : State) (m : Move) : (s.openCycle m).cycle = s.cycle := rfl

/-- The state after the three units have contributed to an opened cycle. -/
def unitsDone (s : State) (m : Move) : State :=
  { s.openCycle m with
    nxt := { s.regs with sync1 := s.env.pin s.cycle, sync2 := s.regs.sync1, rduPrev := s.regs.sync2 }
    req := { Requests.empty with capture := s.regs.captured } }

/-- The state after the engine has contributed too. -/
def engineDone (s : State) (m : Move) : State :=
  ((unitsDone s m).setNxt (engineNxt s.regs (unitsDone s m).nxt)).setReq (engineReq s.regs (unitsDone s m).req)

theorem runRows_units (s : State) (m : Move) :
    runRows (s.rows m) (s.openCycle m) = runRows (s.regs.engineRow :: m.row) (unitsDone s m) := by cases m <;> rfl

theorem runRows_engine (s : State) (m : Move) :
    runRows (s.regs.engineRow :: m.row) (unitsDone s m) = runRows m.row (engineDone s m) := by
  have h : exec s.regs.engineRow (unitsDone s m) = .next (engineDone s m) := exec_engineRow (unitsDone s m)
  rw [runRows, h]

/-- Whatever the host's move, the cycle answers the closed form. -/
theorem cycleWith_eq (s : State) (m : Move) : s.cycleWith m = .next (cycleResult s m) := by
  unfold State.cycleWith
  rw [runRows_units, runRows_engine]
  cases m with
  | quiet =>
    cases hr : s.env.rstN <;>
      simp [Move.row, runRows, State.closeCycle, State.clockEdge, State.edgeRegs, cycleResult, nextRegs, proposedRegs, proposedReq,
        moveAck, hr, engineDone, unitsDone, State.openCycle]
  | present cmd v =>
    rw [Move.row, runRows, exec_decodeBus]
    cases hr : s.env.rstN <;> cases ha : moveAck s.regs (.present cmd v) <;>
      simp [runRows, State.closeCycle, State.clockEdge, State.edgeRegs, cycleResult, nextRegs, proposedRegs, proposedReq, hr, ha,
        engineDone, unitsDone, State.openCycle]

/-- A step with a legal move is the closed form of its cycle. -/
theorem step_of_move {s : State} {m : Move} (h : s.host.move = .ok m) : step s = .next (cycleResult s m) := by
  unfold step
  rw [h]
  exact cycleWith_eq s m

/-- A step that answers a next state made a legal move, and the state is the closed form of its cycle. -/
theorem step_next {s t : State} (h : step s = .next t) : ∃ m, s.host.move = .ok m ∧ t = cycleResult s m := by
  unfold step at h
  split at h
  · rename_i m hm
    rw [cycleWith_eq] at h
    exact ⟨m, hm, (Host.Outcome.next.inj h).symm⟩
  · exact nomatch h

/-! ### Fields of the closed form -/

variable (s : State) (m : Move)

@[simp] theorem cycleResult_nxt : (cycleResult s m).nxt = (cycleResult s m).regs := rfl
@[simp] theorem cycleResult_req : (cycleResult s m).req = Requests.empty := rfl
@[simp] theorem cycleResult_inp : (cycleResult s m).inp = inputsOf m s.env.rstN (s.env.pin s.cycle) := rfl
@[simp] theorem cycleResult_env : (cycleResult s m).env = s.env.advance := rfl
@[simp] theorem cycleResult_cycle : (cycleResult s m).cycle = s.cycle + 1 := rfl
@[simp] theorem cycleResult_sck : (cycleResult s m).out.sck = s.regs.sckPin := rfl
@[simp] theorem cycleResult_irq : (cycleResult s m).out.irq = s.regs.irqLevel := rfl
@[simp] theorem cycleResult_ack : (cycleResult s m).out.ack = (s.env.rstN && moveAck s.regs m) := rfl

theorem cycleResult_regs_running (h : s.env.rstN = true) :
    (cycleResult s m).regs = nextRegs s.regs m (s.env.pin s.cycle) := by simp [cycleResult, h]

theorem cycleResult_regs_reset (h : s.env.rstN = false) : (cycleResult s m).regs = Regs.reset := by simp [cycleResult, h]

end Sys2Proof.Machine
end

