-- ==== Sys2Proof/Laws/Fields.lean ====
section
/-! SUPPORT. The frames of the two contributions to a cycle, field by field: the engine proposes only its own six
elements and three requests, a transaction only the control, timing and enable fields and the host's requests; and the
registers after a cycle, field by field. -/

namespace Sys2Proof.Machine

/-! ### The engine's frame -/
@[simp] theorem engineNxt_ctrlEn (r nxt : Regs) : (engineNxt r nxt).ctrlEn = nxt.ctrlEn := by unfold engineNxt; (repeat' split) <;> rfl
@[simp] theorem engineNxt_ctrlWaitrdy (r nxt : Regs) : (engineNxt r nxt).ctrlWaitrdy = nxt.ctrlWaitrdy := by unfold engineNxt; (repeat' split) <;> rfl
@[simp] theorem engineNxt_ctrlScksw (r nxt : Regs) : (engineNxt r nxt).ctrlScksw = nxt.ctrlScksw := by unfold engineNxt; (repeat' split) <;> rfl
@[simp] theorem engineNxt_tHi (r nxt : Regs) : (engineNxt r nxt).tHi = nxt.tHi := by unfold engineNxt; (repeat' split) <;> rfl
@[simp] theorem engineNxt_tLo (r nxt : Regs) : (engineNxt r nxt).tLo = nxt.tLo := by unfold engineNxt; (repeat' split) <;> rfl
@[simp] theorem engineNxt_ieRdy (r nxt : Regs) : (engineNxt r nxt).ieRdy = nxt.ieRdy := by unfold engineNxt; (repeat' split) <;> rfl
@[simp] theorem engineNxt_ieRxne (r nxt : Regs) : (engineNxt r nxt).ieRxne = nxt.ieRxne := by unfold engineNxt; (repeat' split) <;> rfl
@[simp] theorem engineNxt_ieTo (r nxt : Regs) : (engineNxt r nxt).ieTo = nxt.ieTo := by unfold engineNxt; (repeat' split) <;> rfl
@[simp] theorem engineNxt_toFlag (r nxt : Regs) : (engineNxt r nxt).toFlag = nxt.toFlag := by unfold engineNxt; (repeat' split) <;> rfl
@[simp] theorem engineNxt_txovfFlag (r nxt : Regs) : (engineNxt r nxt).txovfFlag = nxt.txovfFlag := by unfold engineNxt; (repeat' split) <;> rfl
@[simp] theorem engineNxt_rduArm (r nxt : Regs) : (engineNxt r nxt).rduArm = nxt.rduArm := by unfold engineNxt; (repeat' split) <;> rfl
@[simp] theorem engineNxt_rduFlag (r nxt : Regs) : (engineNxt r nxt).rduFlag = nxt.rduFlag := by unfold engineNxt; (repeat' split) <;> rfl
@[simp] theorem engineNxt_rduPrev (r nxt : Regs) : (engineNxt r nxt).rduPrev = nxt.rduPrev := by unfold engineNxt; (repeat' split) <;> rfl
@[simp] theorem engineNxt_sync1 (r nxt : Regs) : (engineNxt r nxt).sync1 = nxt.sync1 := by unfold engineNxt; (repeat' split) <;> rfl
@[simp] theorem engineNxt_sync2 (r nxt : Regs) : (engineNxt r nxt).sync2 = nxt.sync2 := by unfold engineNxt; (repeat' split) <;> rfl
@[simp] theorem engineNxt_txq (r nxt : Regs) : (engineNxt r nxt).txq = nxt.txq := by unfold engineNxt; (repeat' split) <;> rfl
@[simp] theorem engineNxt_rxq (r nxt : Regs) : (engineNxt r nxt).rxq = nxt.rxq := by unfold engineNxt; (repeat' split) <;> rfl
@[simp] theorem engineReq_hPush (r : Regs) (q : Requests) : (engineReq r q).hPush = q.hPush := by unfold engineReq; (repeat' split) <;> rfl
@[simp] theorem engineReq_hPop (r : Regs) (q : Requests) : (engineReq r q).hPop = q.hPop := by unfold engineReq; (repeat' split) <;> rfl
@[simp] theorem engineReq_hFlushTx (r : Regs) (q : Requests) : (engineReq r q).hFlushTx = q.hFlushTx := by unfold engineReq; (repeat' split) <;> rfl
@[simp] theorem engineReq_hFlushRx (r : Regs) (q : Requests) : (engineReq r q).hFlushRx = q.hFlushRx := by unfold engineReq; (repeat' split) <;> rfl
@[simp] theorem engineReq_hW1cTo (r : Regs) (q : Requests) : (engineReq r q).hW1cTo = q.hW1cTo := by unfold engineReq; (repeat' split) <;> rfl
@[simp] theorem engineReq_hW1cTxovf (r : Regs) (q : Requests) : (engineReq r q).hW1cTxovf = q.hW1cTxovf := by unfold engineReq; (repeat' split) <;> rfl
@[simp] theorem engineReq_hArm (r : Regs) (q : Requests) : (engineReq r q).hArm = q.hArm := by unfold engineReq; (repeat' split) <;> rfl
@[simp] theorem engineReq_hDisarm (r : Regs) (q : Requests) : (engineReq r q).hDisarm = q.hDisarm := by unfold engineReq; (repeat' split) <;> rfl
@[simp] theorem engineReq_hClr (r : Regs) (q : Requests) : (engineReq r q).hClr = q.hClr := by unfold engineReq; (repeat' split) <;> rfl
@[simp] theorem engineReq_capture (r : Regs) (q : Requests) : (engineReq r q).capture = q.capture := by unfold engineReq; (repeat' split) <;> rfl

/-! ### A transaction's frame -/
@[simp] theorem moveNxt_toFlag (nxt : Regs) (m : Move) : (moveNxt nxt m).toFlag = nxt.toFlag := by unfold moveNxt; (repeat' split) <;> rfl
@[simp] theorem moveNxt_txovfFlag (nxt : Regs) (m : Move) : (moveNxt nxt m).txovfFlag = nxt.txovfFlag := by unfold moveNxt; (repeat' split) <;> rfl
@[simp] theorem moveNxt_rduArm (nxt : Regs) (m : Move) : (moveNxt nxt m).rduArm = nxt.rduArm := by unfold moveNxt; (repeat' split) <;> rfl
@[simp] theorem moveNxt_rduFlag (nxt : Regs) (m : Move) : (moveNxt nxt m).rduFlag = nxt.rduFlag := by unfold moveNxt; (repeat' split) <;> rfl
@[simp] theorem moveNxt_rduPrev (nxt : Regs) (m : Move) : (moveNxt nxt m).rduPrev = nxt.rduPrev := by unfold moveNxt; (repeat' split) <;> rfl
@[simp] theorem moveNxt_sync1 (nxt : Regs) (m : Move) : (moveNxt nxt m).sync1 = nxt.sync1 := by unfold moveNxt; (repeat' split) <;> rfl
@[simp] theorem moveNxt_sync2 (nxt : Regs) (m : Move) : (moveNxt nxt m).sync2 = nxt.sync2 := by unfold moveNxt; (repeat' split) <;> rfl
@[simp] theorem moveNxt_txq (nxt : Regs) (m : Move) : (moveNxt nxt m).txq = nxt.txq := by unfold moveNxt; (repeat' split) <;> rfl
@[simp] theorem moveNxt_rxq (nxt : Regs) (m : Move) : (moveNxt nxt m).rxq = nxt.rxq := by unfold moveNxt; (repeat' split) <;> rfl
@[simp] theorem moveNxt_st (nxt : Regs) (m : Move) : (moveNxt nxt m).st = nxt.st := by unfold moveNxt; (repeat' split) <;> rfl
@[simp] theorem moveNxt_wcnt (nxt : Regs) (m : Move) : (moveNxt nxt m).wcnt = nxt.wcnt := by unfold moveNxt; (repeat' split) <;> rfl
@[simp] theorem moveNxt_pcnt (nxt : Regs) (m : Move) : (moveNxt nxt m).pcnt = nxt.pcnt := by unfold moveNxt; (repeat' split) <;> rfl
@[simp] theorem moveNxt_acc (nxt : Regs) (m : Move) : (moveNxt nxt m).acc = nxt.acc := by unfold moveNxt; (repeat' split) <;> rfl
@[simp] theorem moveNxt_tcnt (nxt : Regs) (m : Move) : (moveNxt nxt m).tcnt = nxt.tcnt := by unfold moveNxt; (repeat' split) <;> rfl
@[simp] theorem moveNxt_sckEng (nxt : Regs) (m : Move) : (moveNxt nxt m).sckEng = nxt.sckEng := by unfold moveNxt; (repeat' split) <;> rfl
@[simp] theorem moveReq_engPop2 (q : Requests) (m : Move) : (moveReq q m).engPop2 = q.engPop2 := by unfold moveReq; (repeat' split) <;> rfl
@[simp] theorem moveReq_engPush (q : Requests) (m : Move) : (moveReq q m).engPush = q.engPush := by unfold moveReq; (repeat' split) <;> rfl
@[simp] theorem moveReq_engTo (q : Requests) (m : Move) : (moveReq q m).engTo = q.engTo := by unfold moveReq; (repeat' split) <;> rfl
@[simp] theorem moveReq_capture (q : Requests) (m : Move) : (moveReq q m).capture = q.capture := by unfold moveReq; (repeat' split) <;> rfl

/-! ### The engine's requests -/

theorem engineReq_engPop2 (r : Regs) (q : Requests) (h : q.engPop2 = false) : (engineReq r q).engPop2 = r.takesJob := by
  unfold engineReq Regs.takesJob
  cases hen : r.ctrlEn <;> cases hst : r.st <;> simp [h] <;> split <;> simp_all

theorem engineReq_engTo (r : Regs) (q : Requests) (h : q.engTo = false) : (engineReq r q).engTo = r.timesOut := by
  unfold engineReq Regs.timesOut
  cases hen : r.ctrlEn <;> cases hst : r.st <;> simp [h] <;> split <;> simp_all

theorem engineReq_engPush (r : Regs) (q : Requests) (h : q.engPush = none) : (engineReq r q).engPush = r.delivers := by
  unfold engineReq Regs.delivers Config.rxDepth
  cases hen : r.ctrlEn <;> cases hst : r.st <;> simp [h] <;> split <;> simp_all

/-! ### The registers after a cycle that is not a reset cycle -/

variable (r : Regs) (m : Move) (pin : Bool)
@[simp] theorem nextRegs_st : (nextRegs r m pin).st = (engineNxt r r).st := by
  simp only [nextRegs, combine, proposedRegs]
  split <;> (try simp only [moveNxt_st]) <;> (unfold engineNxt; (repeat' split) <;> rfl)
@[simp] theorem nextRegs_wcnt : (nextRegs r m pin).wcnt = (engineNxt r r).wcnt := by
  simp only [nextRegs, combine, proposedRegs]
  split <;> (try simp only [moveNxt_wcnt]) <;> (unfold engineNxt; (repeat' split) <;> rfl)
@[simp] theorem nextRegs_pcnt : (nextRegs r m pin).pcnt = (engineNxt r r).pcnt := by
  simp only [nextRegs, combine, proposedRegs]
  split <;> (try simp only [moveNxt_pcnt]) <;> (unfold engineNxt; (repeat' split) <;> rfl)
@[simp] theorem nextRegs_acc : (nextRegs r m pin).acc = (engineNxt r r).acc := by
  simp only [nextRegs, combine, proposedRegs]
  split <;> (try simp only [moveNxt_acc]) <;> (unfold engineNxt; (repeat' split) <;> rfl)
@[simp] theorem nextRegs_tcnt : (nextRegs r m pin).tcnt = (engineNxt r r).tcnt := by
  simp only [nextRegs, combine, proposedRegs]
  split <;> (try simp only [moveNxt_tcnt]) <;> (unfold engineNxt; (repeat' split) <;> rfl)
@[simp] theorem nextRegs_sckEng : (nextRegs r m pin).sckEng = (engineNxt r r).sckEng := by
  simp only [nextRegs, combine, proposedRegs]
  split <;> (try simp only [moveNxt_sckEng]) <;> (unfold engineNxt; (repeat' split) <;> rfl)
@[simp] theorem nextRegs_sync1 : (nextRegs r m pin).sync1 = pin := by simp only [nextRegs, combine, proposedRegs]; split <;> simp
@[simp] theorem nextRegs_sync2 : (nextRegs r m pin).sync2 = r.sync1 := by simp only [nextRegs, combine, proposedRegs]; split <;> simp
@[simp] theorem nextRegs_rduPrev : (nextRegs r m pin).rduPrev = r.sync2 := by simp only [nextRegs, combine, proposedRegs]; split <;> simp
theorem nextRegs_ctrlEn : (nextRegs r m pin).ctrlEn = if moveAck r m then (moveNxt r m).ctrlEn else r.ctrlEn := by
  simp only [nextRegs, combine, proposedRegs]
  cases m <;> simp only [moveNxt] <;> (repeat' split) <;> simp_all [Regs.withCtrl, Regs.withTiming, Regs.withIe]
theorem nextRegs_ctrlWaitrdy : (nextRegs r m pin).ctrlWaitrdy = if moveAck r m then (moveNxt r m).ctrlWaitrdy else r.ctrlWaitrdy := by
  simp only [nextRegs, combine, proposedRegs]
  cases m <;> simp only [moveNxt] <;> (repeat' split) <;> simp_all [Regs.withCtrl, Regs.withTiming, Regs.withIe]
theorem nextRegs_ctrlScksw : (nextRegs r m pin).ctrlScksw = if moveAck r m then (moveNxt r m).ctrlScksw else r.ctrlScksw := by
  simp only [nextRegs, combine, proposedRegs]
  cases m <;> simp only [moveNxt] <;> (repeat' split) <;> simp_all [Regs.withCtrl, Regs.withTiming, Regs.withIe]
theorem nextRegs_tHi : (nextRegs r m pin).tHi = if moveAck r m then (moveNxt r m).tHi else r.tHi := by
  simp only [nextRegs, combine, proposedRegs]
  cases m <;> simp only [moveNxt] <;> (repeat' split) <;> simp_all [Regs.withCtrl, Regs.withTiming, Regs.withIe]
theorem nextRegs_tLo : (nextRegs r m pin).tLo = if moveAck r m then (moveNxt r m).tLo else r.tLo := by
  simp only [nextRegs, combine, proposedRegs]
  cases m <;> simp only [moveNxt] <;> (repeat' split) <;> simp_all [Regs.withCtrl, Regs.withTiming, Regs.withIe]
theorem nextRegs_ieRdy : (nextRegs r m pin).ieRdy = if moveAck r m then (moveNxt r m).ieRdy else r.ieRdy := by
  simp only [nextRegs, combine, proposedRegs]
  cases m <;> simp only [moveNxt] <;> (repeat' split) <;> simp_all [Regs.withCtrl, Regs.withTiming, Regs.withIe]
theorem nextRegs_ieRxne : (nextRegs r m pin).ieRxne = if moveAck r m then (moveNxt r m).ieRxne else r.ieRxne := by
  simp only [nextRegs, combine, proposedRegs]
  cases m <;> simp only [moveNxt] <;> (repeat' split) <;> simp_all [Regs.withCtrl, Regs.withTiming, Regs.withIe]
theorem nextRegs_ieTo : (nextRegs r m pin).ieTo = if moveAck r m then (moveNxt r m).ieTo else r.ieTo := by
  simp only [nextRegs, combine, proposedRegs]
  cases m <;> simp only [moveNxt] <;> (repeat' split) <;> simp_all [Regs.withCtrl, Regs.withTiming, Regs.withIe]
theorem nextRegs_txq : (nextRegs r m pin).txq = (proposedReq r m).txqNext r := rfl
theorem nextRegs_rxq : (nextRegs r m pin).rxq = (proposedReq r m).rxqNext r := rfl
theorem nextRegs_toFlag : (nextRegs r m pin).toFlag = (proposedReq r m).toFlagNext r := rfl
theorem nextRegs_txovfFlag : (nextRegs r m pin).txovfFlag = (proposedReq r m).txovfFlagNext r := rfl
theorem nextRegs_rduArm : (nextRegs r m pin).rduArm = (proposedReq r m).rduArmNext r := rfl
theorem nextRegs_rduFlag : (nextRegs r m pin).rduFlag = (proposedReq r m).rduFlagNext r := rfl

/-! ### The requests of a cycle -/
@[simp] theorem proposedReq_engPop2 : (proposedReq r m).engPop2 = r.takesJob := by
  simp only [proposedReq]
  split <;> simp [engineReq_engPop2, Requests.empty]
@[simp] theorem proposedReq_engTo : (proposedReq r m).engTo = r.timesOut := by
  simp only [proposedReq]
  split <;> simp [engineReq_engTo, Requests.empty]
@[simp] theorem proposedReq_engPush : (proposedReq r m).engPush = r.delivers := by
  simp only [proposedReq]
  split <;> simp [engineReq_engPush, Requests.empty]
@[simp] theorem proposedReq_capture : (proposedReq r m).capture = r.captured := by
  simp only [proposedReq]
  split <;> simp

/-- The requests of the host's transaction alone. -/
def hostReq (r : Regs) (m : Move) : Requests := if moveAck r m then moveReq Requests.empty m else Requests.empty

theorem proposedReq_hPush : (proposedReq r m).hPush = (hostReq r m).hPush := by
  simp only [proposedReq, hostReq]
  cases moveAck r m
  · simp [Requests.empty]
  · cases m <;> simp [moveReq, Requests.withCtrl, Requests.withStatus, Requests.withTxf, Requests.withRdy, Requests.empty]
    (repeat' split) <;> simp
theorem proposedReq_hPop : (proposedReq r m).hPop = (hostReq r m).hPop := by
  simp only [proposedReq, hostReq]
  cases moveAck r m
  · simp [Requests.empty]
  · cases m <;> simp [moveReq, Requests.withCtrl, Requests.withStatus, Requests.withTxf, Requests.withRdy, Requests.empty]
    (repeat' split) <;> simp
theorem proposedReq_hFlushTx : (proposedReq r m).hFlushTx = (hostReq r m).hFlushTx := by
  simp only [proposedReq, hostReq]
  cases moveAck r m
  · simp [Requests.empty]
  · cases m <;> simp [moveReq, Requests.withCtrl, Requests.withStatus, Requests.withTxf, Requests.withRdy, Requests.empty]
    (repeat' split) <;> simp
theorem proposedReq_hFlushRx : (proposedReq r m).hFlushRx = (hostReq r m).hFlushRx := by
  simp only [proposedReq, hostReq]
  cases moveAck r m
  · simp [Requests.empty]
  · cases m <;> simp [moveReq, Requests.withCtrl, Requests.withStatus, Requests.withTxf, Requests.withRdy, Requests.empty]
    (repeat' split) <;> simp
theorem proposedReq_hW1cTo : (proposedReq r m).hW1cTo = (hostReq r m).hW1cTo := by
  simp only [proposedReq, hostReq]
  cases moveAck r m
  · simp [Requests.empty]
  · cases m <;> simp [moveReq, Requests.withCtrl, Requests.withStatus, Requests.withTxf, Requests.withRdy, Requests.empty]
    (repeat' split) <;> simp
theorem proposedReq_hW1cTxovf : (proposedReq r m).hW1cTxovf = (hostReq r m).hW1cTxovf := by
  simp only [proposedReq, hostReq]
  cases moveAck r m
  · simp [Requests.empty]
  · cases m <;> simp [moveReq, Requests.withCtrl, Requests.withStatus, Requests.withTxf, Requests.withRdy, Requests.empty]
    (repeat' split) <;> simp
theorem proposedReq_hArm : (proposedReq r m).hArm = (hostReq r m).hArm := by
  simp only [proposedReq, hostReq]
  cases moveAck r m
  · simp [Requests.empty]
  · cases m <;> simp [moveReq, Requests.withCtrl, Requests.withStatus, Requests.withTxf, Requests.withRdy, Requests.empty]
    (repeat' split) <;> simp
theorem proposedReq_hDisarm : (proposedReq r m).hDisarm = (hostReq r m).hDisarm := by
  simp only [proposedReq, hostReq]
  cases moveAck r m
  · simp [Requests.empty]
  · cases m <;> simp [moveReq, Requests.withCtrl, Requests.withStatus, Requests.withTxf, Requests.withRdy, Requests.empty]
    (repeat' split) <;> simp
theorem proposedReq_hClr : (proposedReq r m).hClr = (hostReq r m).hClr := by
  simp only [proposedReq, hostReq]
  cases moveAck r m
  · simp [Requests.empty]
  · cases m <;> simp [moveReq, Requests.withCtrl, Requests.withStatus, Requests.withTxf, Requests.withRdy, Requests.empty]
    (repeat' split) <;> simp

end Sys2Proof.Machine
end

