-- ==== Sys2Proof/Laws/Host.lean ====
section
/-! SUPPORT. The host agent: items at the head of the program that take no cycle, what a held transaction leaves, and
runs of a quiet machine, in which only the engine and the units act. -/

namespace Sys2Proof.Machine

@[simp] theorem skipDone_skipDone (ops : List HostOp) : skipDone (skipDone ops) = skipDone ops := by
  induction ops using skipDone.induct with
  | case1 rest ih => simpa [skipDone] using ih
  | case2 rest ih => simpa [skipDone] using ih
  | case3 ops h1 h2 => simp [skipDone]

/-- The host's move reads the program only past the items that take no cycle. -/
theorem HostAgent.move_congr {h h' : HostAgent} (hc : h'.ctrlv = h.ctrlv) (hp : skipDone h'.prog = skipDone h.prog) :
    h'.move = h.move := by
  unfold HostAgent.move
  rw [hp]
  cases skipDone h.prog with
  | nil => rfl
  | cons op _ => cases op <;> simp [HostOp.move, hc]

/-- A transaction that does not complete is presented again (R151). -/
theorem HostAgent.advance_held (h : HostAgent) (cmd : Nibble) (w rdata : Word) :
    (h.advance (.present cmd w) false rdata) = { h with prog := skipDone h.prog } := by
  unfold HostAgent.advance
  cases hp : skipDone h.prog <;> simp

theorem HostAgent.move_held (h : HostAgent) (cmd : Nibble) (w rdata : Word) :
    (h.advance (.present cmd w) false rdata).move = h.move := by
  rw [HostAgent.advance_held]
  exact HostAgent.move_congr rfl (by simp)

/-- The silent twin makes no transaction, and its registers, ports and schedule are the state's own. -/
@[simp] theorem State.hostSilent_move (s : State) : s.hostSilent.host.move = .ok .quiet := rfl
@[simp] theorem State.hostSilent_regs (s : State) : s.hostSilent.regs = s.regs := rfl
@[simp] theorem State.hostSilent_env (s : State) : s.hostSilent.env = s.env := rfl
@[simp] theorem State.hostSilent_cycle (s : State) : s.hostSilent.cycle = s.cycle := rfl

theorem silent_step (s : State) : step s.hostSilent = .next (cycleResult s.hostSilent .quiet) := step_of_move rfl

theorem silent_regs (s : State) (h : s.Running) :
    (cycleResult s.hostSilent .quiet).regs = nextRegs s.regs .quiet (s.env.pin s.cycle) :=
  cycleResult_regs_running s.hostSilent .quiet h

/-! ### Quiet runs -/

/-- A run goes on after a step that answers a next state. -/
theorem run_succ {s t : State} (h : step s = .next t) (k : Nat) : core.run (k + 1) s = core.run k t := by
  have hs : core.step s = .next t := h
  simp only [Host.Core.run, hs]

theorem HostAgent.move_done {h : HostAgent} (hp : h.prog = []) : h.move = .ok .quiet := by simp [HostAgent.move, hp, skipDone]

theorem HostAgent.advance_done {h : HostAgent} (hp : h.prog = []) (ack : Bool) (w : Word) : h.advance .quiet ack w = h := by
  obtain ⟨⟩ := h
  subst hp
  rfl

/-- One quiet step: the registers follow the engine and the units, and the machine stays quiet. -/
theorem quiet_step {s : State} (h : s.Quiet) :
    ∃ t, step s = .next t ∧ t.Quiet ∧ t.regs = nextRegs s.regs .quiet (s.env.pin s.cycle) ∧ t.env = s.env.advance := by
  obtain ⟨hp, hr⟩ := h
  have hn : s.env.rstN = true := by simp [Env.rstN, hr]
  refine ⟨_, step_of_move (HostAgent.move_done hp), ⟨?_, ?_⟩, cycleResult_regs_running _ _ hn, rfl⟩
  · simp [cycleResult, HostAgent.advance_done hp, hp]
  · simp [cycleResult, Env.advance, hr]

/-- A quiet machine is regular for as long as one likes. -/
theorem State.Quiet.regular {s : State} (h : s.Quiet) (k : Nat) : s.Regular k := by
  induction k generalizing s with
  | zero => trivial
  | succ k ih =>
    refine ⟨by simp [State.Running, Env.rstN, h.2], ⟨.quiet, HostAgent.move_done h.1, fun v => ⟨nofun, nofun⟩⟩, fun t ht => ?_⟩
    obtain ⟨u, hu, hq, -⟩ := quiet_step h
    obtain rfl : t = u := Host.Outcome.next.inj (ht.symm.trans hu)
    exact ih hq

/-- One step of a regular machine: the registers follow the engine, the units and a transaction that leaves the fields of
`CTRL` and `TIMING`, and the machine stays regular. -/
theorem State.Regular.step {s : State} {k : Nat} (h : s.Regular (k + 1)) :
    ∃ m t, Sys2Proof.Machine.step s = .next t ∧ t.Regular k ∧ t.regs = nextRegs s.regs m (s.env.pin s.cycle) ∧
      t.regs.ctrlEn = s.regs.ctrlEn ∧ t.regs.tHi = s.regs.tHi ∧ t.regs.tLo = s.regs.tLo := by
  obtain ⟨hr, ⟨m, hm, hw⟩, hk⟩ := h
  have hregs := cycleResult_regs_running s m hr
  have hfields : (moveNxt s.regs m).ctrlEn = s.regs.ctrlEn ∧ (moveNxt s.regs m).tHi = s.regs.tHi ∧
      (moveNxt s.regs m).tLo = s.regs.tLo := by
    cases m with
    | quiet => exact ⟨rfl, rfl, rfl⟩
    | present cmd v =>
      have h1 : cmd ≠ 0x1#4 := fun h => (hw v).1 (h ▸ rfl)
      have h5 : cmd ≠ 0x5#4 := fun h => (hw v).2 (h ▸ rfl)
      simp only [moveNxt, h1, h5, if_false]
      split <;> exact ⟨rfl, rfl, rfl⟩
  refine ⟨m, _, step_of_move hm, hk _ (step_of_move hm), hregs, ?_, ?_, ?_⟩ <;> rw [hregs] <;>
    simp [nextRegs_ctrlEn, nextRegs_tHi, nextRegs_tLo, hfields]

/-- The registers after cycles with the given moves and levels on the data line. -/
def busyRegs (r : Regs) (ms : List (Move × Bool)) : Regs := ms.foldl (fun r m => nextRegs r m.1 m.2) r

/-- The schedule of the cycles after the next. -/
theorem State.Line.tail {s t : State} {levels : List Bool} (h : s.Line levels) (he : t.env = s.env.advance) :
    t.Line levels.tail := by
  unfold State.Line at h ⊢
  rw [he, Env.advance]
  obtain ⟨rest, hrest⟩ := h
  cases levels with
  | nil => simp
  | cons a l => exact ⟨rest, by rw [← hrest]; simp⟩

/-- A scheduled level is the one the next cycle sees. -/
theorem State.Line.pin {s : State} {a : Bool} {l : List Bool} (h : s.Line (a :: l)) (n : Nat) : s.env.pin n = a := by
  obtain ⟨rest, hrest⟩ := h
  simp [Env.pin, ← hrest]

/-- A regular run of `k` cycles follows `busyRegs` with moves that write neither `CTRL` nor `TIMING` and some levels, the
scheduled ones first. -/
theorem regular_run (k : Nat) : ∀ (s : State) (levels : List Bool), s.Regular k → s.Line levels →
    ∃ t ms, core.run k s = .next t ∧ ms.length = k ∧
      (∀ i, i < k → i < levels.length → (ms.map Prod.snd)[i]? = levels[i]?) ∧
      (∀ m ∈ ms, ∀ v, m.1 ≠ .present 0x1#4 v ∧ m.1 ≠ .present 0x5#4 v) ∧ t.regs = busyRegs s.regs ms := by
  induction k with
  | zero => exact fun s levels _ _ => ⟨s, [], rfl, rfl, by simp, by simp, rfl⟩
  | succ k ih =>
    intro s levels ⟨hr, ⟨m, hm, hw⟩, hk⟩ hl
    have hs := step_of_move hm
    obtain ⟨u, ms, hu, hlen, hpins, hms, hreg⟩ := ih _ levels.tail (hk _ hs) (hl.tail rfl)
    refine ⟨u, (m, s.env.pin s.cycle) :: ms, by rw [run_succ hs, hu], by simp [hlen], ?_, ?_, ?_⟩
    · intro i hi hil
      cases levels with
      | nil => simp at hil
      | cons a l =>
        cases i with
        | zero => simp [hl.pin]
        | succ i => simpa using hpins i (by omega) (by simpa using hil)
    · intro m' hm'
      rcases List.mem_cons.mp hm' with rfl | hm'
      · exact hw
      · exact hms m' hm'
    · rw [hreg, cycleResult_regs_running s m hr]
      rfl

/-- The registers after quiet cycles with the given levels on the data line. -/
def quietRegs (r : Regs) (pins : List Bool) : Regs := pins.foldl (fun r p => nextRegs r .quiet p) r

/-- A quiet run of `k` cycles follows `quietRegs` with some levels, the scheduled ones first. -/
theorem quiet_run (k : Nat) : ∀ (s : State) (levels : List Bool), s.Quiet → s.Line levels →
    ∃ t pins, core.run k s = .next t ∧ t.Quiet ∧ pins.length = k ∧ (∀ i, i < k → i < levels.length → pins[i]? = levels[i]?) ∧
      t.regs = quietRegs s.regs pins := by
  induction k with
  | zero => exact fun s levels h _ => ⟨s, [], rfl, h, rfl, by simp, rfl⟩
  | succ k ih =>
    intro s levels hq hl
    obtain ⟨t, hs, hqt, hr, he⟩ := quiet_step hq
    obtain ⟨u, pins, hu, hqu, hlen, hpins, hreg⟩ := ih t levels.tail hqt (hl.tail he)
    refine ⟨u, s.env.pin s.cycle :: pins, ?_, hqu, by simp [hlen], ?_, ?_⟩
    · rw [run_succ hs]
      exact hu
    · intro i hi hil
      cases levels with
      | nil => simp at hil
      | cons a l =>
        cases i with
        | zero => simp [hl.pin]
        | succ i => simpa using hpins i (by omega) (by simpa using hil)
    · rw [hreg, hr]
      rfl

end Sys2Proof.Machine
end

