-- ==== Sys2Proof/Laws/Ops.lean ====
section
/-! SUPPORT. What each shared operation can do, said once: a transaction's answer, the FIFO combinations and their
bounds, and the clock edge. -/

namespace Sys2Proof.Machine

/-- A read leaves everything but the answer as it was. -/
theorem State.readOp_eq (s : State) (v : Word) :
    s.readOp v = { s with out := { s.out with ack := s.inp.rstN, rdata := if s.inp.rstN then v else 0#32 } } := rfl

/-- A write that completes proposes and answers; one that does not only answers `ack = 0`. -/
theorem State.writeOp_running (s : State) (r : Regs) (q : Requests) (h : s.inp.rstN = true) :
    s.writeOp r q = { s with nxt := r, req := q, out := { s.out with ack := true, rdata := 0#32 } } := by
  simp [State.writeOp, h, State.setBus, State.setNxt, State.setReq]

theorem State.writeOp_reset (s : State) (r : Regs) (q : Requests) (h : s.inp.rstN = false) :
    s.writeOp r q = { s with out := { s.out with ack := false, rdata := 0#32 } } := by
  simp [State.writeOp, h, State.setBus]

/-- The job FIFO never exceeds its capacity (R45, R145). -/
theorem Requests.txqNext_length (q : Requests) (r : Regs) (h : r.txq.length ≤ Config.txDepth) :
    (q.txqNext r).length ≤ Config.txDepth := by
  have h0 : (if q.engPop2 then r.txq.drop 2 else r.txq).length ≤ r.txq.length := by split <;> simp
  unfold Requests.txqNext
  dsimp only
  split
  · simp
  · split
    · split
      · simp only [List.length_append, List.length_singleton]
        omega
      · omega
    · omega

/-- The result FIFO never exceeds its capacity, where the engine pushes only into a FIFO with room (R46, R146). -/
theorem Requests.rxqNext_length (q : Requests) (r : Regs) (h : r.rxq.length ≤ Config.rxDepth)
    (hp : q.engPush ≠ none → r.rxq.length < Config.rxDepth) : (q.rxqNext r).length ≤ Config.rxDepth := by
  have h0 : (if q.hPop then r.rxq.tail else r.rxq).length ≤ r.rxq.length := by split <;> simp
  unfold Requests.rxqNext
  dsimp only
  split
  · simp
  · split
    · rename_i w hw
      have := hp (by simp [hw])
      simp only [List.length_append, List.length_singleton]
      omega
    · omega

/-- The clock edge leaves the ports, the host and the environment as they are. -/
@[simp] theorem State.clockEdge_inp (s : State) : s.clockEdge.inp = s.inp := rfl
@[simp] theorem State.clockEdge_out (s : State) : s.clockEdge.out = s.out := rfl
@[simp] theorem State.clockEdge_host (s : State) : s.clockEdge.host = s.host := rfl
@[simp] theorem State.clockEdge_env (s : State) : s.clockEdge.env = s.env := rfl
@[simp] theorem State.clockEdge_regs (s : State) : s.clockEdge.regs = s.edgeRegs := rfl

/-- After the clock edge nothing is proposed (log 1). -/
theorem State.clockEdge_settled (s : State) : s.clockEdge.Settled := ⟨rfl, rfl⟩

end Sys2Proof.Machine
end

