-- ==== Sys2Proof/Laws/PerInstr.lean ====
section
/-! SUPPORT. Per-instruction facts about the operations as syntax: every operation's encoding in the model's byte
container has the length the operation announces (R100: all transactions have one length; log 5). -/

/-- The encoding of `i` has the length of `i`. -/
def Sys2Proof.Laws.Length.Statement (i : Sys2Proof.Instr) : Prop := (Sys2Proof.encode i).length = i.byteLength

namespace Sys2Proof.Laws.Length

open Sys2Proof

theorem rdCtrl : Statement .rdCtrl := rfl
theorem wrCtrl (wdata : Word) : Statement (.wrCtrl wdata) := rfl
theorem rdStatus : Statement .rdStatus := rfl
theorem wrStatus (wdata : Word) : Statement (.wrStatus wdata) := rfl
theorem rdTiming : Statement .rdTiming := rfl
theorem wrTiming (wdata : Word) : Statement (.wrTiming wdata) := rfl
theorem rdTxf : Statement .rdTxf := rfl
theorem wrTxf (wdata : Word) : Statement (.wrTxf wdata) := rfl
theorem rdRxf : Statement .rdRxf := rfl
theorem wrRxf (wdata : Word) : Statement (.wrRxf wdata) := rfl
theorem rdRdy : Statement .rdRdy := rfl
theorem wrRdy (wdata : Word) : Statement (.wrRdy wdata) := rfl
theorem rdIe : Statement .rdIe := rfl
theorem wrIe (wdata : Word) : Statement (.wrIe wdata) := rfl
theorem rdRsvd : Statement .rdRsvd := rfl
theorem wrRsvd (wdata : Word) : Statement (.wrRsvd wdata) := rfl
theorem engStopped (code : BitVec 3) : Statement (.engStopped code) := rfl
theorem engIdle : Statement .engIdle := rfl
theorem engWait : Statement .engWait := rfl
theorem engHigh : Statement .engHigh := rfl
theorem engLow : Statement .engLow := rfl
theorem engPush : Statement .engPush := rfl
theorem engRsvd5 : Statement .engRsvd5 := rfl
theorem engRsvd6 : Statement .engRsvd6 := rfl
theorem engRsvd7 : Statement .engRsvd7 := rfl
theorem syncStep : Statement .syncStep := rfl
theorem rduStep : Statement .rduStep := rfl
theorem pinMux : Statement .pinMux := rfl

end Sys2Proof.Laws.Length
end

