-- ==== Sys2Proof/Tests/Slice0.lean ====
section
/-! SUPPORT. Tests with expected values from the spec's tables and vectors (30_encoding.md, 95_test_vectors.md), each one
step or one decoding, and a witness for the hypotheses of every statement that has any. -/

namespace Sys2Proof.Tests

open Sys2Proof Sys2Proof.Machine

/-- A machine with the registers `r`, the host's program `prog` and the data line's next levels `line`. -/
def machine (r : Regs) (prog : List HostOp) (line : List Bool) : State :=
  { State.reset with
    regs := r, nxt := r, host := { HostAgent.reset with prog := prog }, env := { rst := [], data := line.map DataLine.level } }

/-- A view of the state one step later; none where the step does not answer a next state. -/
def after {α : Type} (view : State → α) (s : State) : Option α :=
  match step s with
  | .next t => some (view t)
  | .fault _ => none
  | .refused _ => none

/-- A view of the state one row's meaning answers. -/
def rowAfter {α : Type} (i : Instr) (view : State → α) (s : State) : Option α :=
  match exec i s with
  | .next t => some (view t)
  | .fault _ => none
  | .refused _ => none

/-! ### Ill-formed operations are refused (R114) -/

theorem test_rsvd5_ill_formed : Instr.wellFormed .engRsvd5 = false := by decide
theorem test_rsvd6_ill_formed : Instr.wellFormed .engRsvd6 = false := by decide
theorem test_rsvd7_ill_formed : Instr.wellFormed .engRsvd7 = false := by decide
theorem test_stopped_code5_ill_formed : Instr.wellFormed (.engStopped 5#3) = false := by decide
theorem test_stopped_code4_well_formed : Instr.wellFormed (.engStopped 4#3) = true := by decide
theorem test_wellformed_all_writes : Instr.wellFormed (.wrRsvd 0xFFFFFFFF#32) = true := by decide

/-! ### Decoding, the bits written out from the tables (R102: `cmd = {off, we}`; opcode table: `{ctrl_en, st}`) -/

theorem test_decode_bus_reads :
    [0b0000#4, 0b0010#4, 0b0100#4, 0b0110#4, 0b1000#4, 0b1010#4, 0b1100#4, 0b1110#4].map (fun c => decodeBus c 0#32) =
      [.rdCtrl, .rdStatus, .rdTiming, .rdTxf, .rdRxf, .rdRdy, .rdIe, .rdRsvd] := by decide
theorem test_decode_bus_writes :
    [0b0001#4, 0b0011#4, 0b0101#4, 0b0111#4, 0b1001#4, 0b1011#4, 0b1101#4, 0b1111#4].map (fun c => decodeBus c 9#32) =
      [.wrCtrl 9#32, .wrStatus 9#32, .wrTiming 9#32, .wrTxf 9#32, .wrRxf 9#32, .wrRdy 9#32, .wrIe 9#32, .wrRsvd 9#32] := by
  decide
theorem test_decode_selector :
    [0b1000#4, 0b1001#4, 0b1010#4, 0b1011#4, 0b1100#4, 0b1101#4, 0b1110#4, 0b1111#4].map decodeSelector =
      [.engIdle, .engWait, .engHigh, .engLow, .engPush, .engRsvd5, .engRsvd6, .engRsvd7] := by decide
theorem test_decode_stopped :
    [0b0000#4, 0b0011#4, 0b0111#4].map decodeSelector = [.engStopped 0#3, .engStopped 3#3, .engStopped 7#3] := by decide
theorem test_decode_units :
    [[0x20#8], [0x21#8], [0x22#8]].map decode = [.ok (.syncStep, []), .ok (.rduStep, []), .ok (.pinMux, [])] := by decide
theorem test_decode_refuses :
    [[], [0x07#8, 0x18#8], [0x23#8], [0x30#8]].map decode =
      [.error .truncated, .error .truncated, .error (.unknownUnit 3), .error (.unknownFormat 3)] := by decide
theorem test_table_word : decodeTableWord 8 0x8 = some .rdRxf ∧ decodeTableWord 8 0x7 = some (.wrTxf 0#32) := by decide
theorem test_fetch_word_runs : after (fun t => (t.inp.off, t.inp.we, t.out.ack)) (State.reset.withFetchWord 8 0x5) = some (2#3, true, true) := by
  decide
/-- S4 and R119: the listing of `wr TXF, 24`. -/
theorem test_listing : listing 0x7#4 24#32 = "7:00000018".toList := by decide

/-! ### Host operations (95_test_vectors.md 2.1) -/

theorem test_wr_ctrl_all_ones :
    after (fun t => (t.regs.ctrlWord, t.regs.txq, t.regs.rxq, t.regs.sckPin))
      (machine { Regs.reset with txq := [1#32, 2#32], rxq := [3#32] } [wr .ctrl 0xFFFFFFFF#32] []) =
      some (0x7#32, [], [], false) := by decide
theorem test_rd_ctrl :
    after (fun t => (t.out.ack, t.out.rdata))
      (machine { Regs.reset with ctrlEn := true, ctrlWaitrdy := true, ctrlScksw := true } [rd .ctrl] []) =
      some (true, 0x7#32) := by decide
theorem test_wr_ctrl_scksw : after (fun t => t.regs.sckPin) (machine Regs.reset [wr .ctrl 0x4#32] []) = some true := by decide
theorem test_rd_status_reset : after (fun t => t.out.rdata) (machine Regs.reset [rd .status] []) = some 0x00001000#32 := by
  decide
theorem test_rd_status_wait :
    after (fun t => t.out.rdata)
      (machine { Regs.reset with
        ctrlEn := true, st := .wait, txq := [1#32, 2#32], rxq := [3#32], toFlag := true } [rd .status] []) =
      some 0x00091129#32 := by decide
theorem test_wr_status_set_wins :
    after (fun t => t.regs.toFlag) (machine { Regs.reset with ctrlEn := true, st := .wait } [wr .status 0x10000#32] []) =
      some true := by decide
theorem test_wr_status_bits :
    after (fun t => (t.regs.toFlag, t.regs.txovfFlag))
      (machine { Regs.reset with toFlag := true, txovfFlag := true } [wr .status 0xFFFEFFFF#32] []) = some (true, false) := by
  decide
theorem test_wr_timing_all_ones :
    after (fun t => (t.regs.highCycles, t.regs.lowCycles)) (machine Regs.reset [wr .timing 0xFFFFFFFF#32] []) =
      some (256, 256) := by decide
theorem test_rd_timing :
    after (fun t => t.out.rdata) (machine { Regs.reset with tHi := 0xFF#8, tLo := 0x0F#8 } [rd .timing] []) =
      some 0x00000FFF#32 := by decide
theorem test_rd_txf_no_pop :
    after (fun t => (t.out.rdata, t.regs.txq)) (machine { Regs.reset with txq := [5#32] } [rd .txf] []) =
      some (0#32, [5#32]) := by decide
theorem test_wr_txf_overflow :
    after (fun t => (t.regs.txq, t.regs.txovfFlag))
      (machine { Regs.reset with txq := [1#32, 2#32, 3#32, 4#32] } [wr .txf 9#32] []) =
      some ([1#32, 2#32, 3#32, 4#32], true) := by decide
theorem test_wr_txf_while_popped :
    after (fun t => (t.regs.txq, t.regs.txovfFlag))
      (machine { Regs.reset with ctrlEn := true, txq := [1#32, 2#32, 3#32, 4#32] } [wr .txf 9#32] []) =
      some ([3#32, 4#32], true) ∧
    after (fun t => (t.regs.txq, t.regs.txovfFlag))
      (machine { Regs.reset with ctrlEn := true, txq := [1#32, 2#32, 3#32] } [wr .txf 9#32] []) =
      some ([3#32, 9#32], false) := by decide
theorem test_rd_rxf_pops :
    after (fun t => (t.out.rdata, t.regs.rxq)) (machine { Regs.reset with rxq := [0xA#32, 0xB#32] } [rd .rxf] []) =
      some (0xA#32, [0xB#32]) := by decide
theorem test_rd_rxf_held :
    after (fun t => (t.out.ack, t.regs.rxq, t.host.prog)) (machine Regs.reset [rd .rxf] []) = some (false, [], [rd .rxf]) := by
  decide
theorem test_wr_rxf_ignored :
    after (fun t => (t.out.ack, t.regs.rxq)) (machine { Regs.reset with rxq := [7#32] } [wr .rxf 1#32] []) =
      some (true, [7#32]) := by decide
theorem test_rd_rdy :
    after (fun t => t.out.rdata) (machine { Regs.reset with rduArm := true } [rd .rdy] []) = some 0x1#32 ∧
    after (fun t => t.out.rdata) (machine { Regs.reset with rduFlag := true } [rd .rdy] []) = some 0x2#32 := by decide
theorem test_wr_ie : after (fun t => t.regs.ieWord) (machine Regs.reset [wr .ie 0xFFFFFFFF#32] []) = some 0x7#32 := by decide
theorem test_rd_ie :
    after (fun t => t.out.rdata) (machine { Regs.reset with ieTo := true, ieRdy := true } [rd .ie] []) = some 0x5#32 := by decide
theorem test_rsvd :
    after (fun t => (t.out.ack, t.out.rdata)) (machine Regs.reset [rd .rsvd] []) = some (true, 0#32) ∧
    after (fun t => (t.out.ack, t.regs.ctrlWord)) (machine Regs.reset [wr .rsvd 0x12345678#32] []) = some (true, 0#32) := by
  decide

/-! ### The ready detector (95_test_vectors.md 2.2: the rows of the table, then of a disarmed detector) -/

/-- `WR_RDY` of `v` on an armed detector, with the synchronised line as given (`rdu_prev = 1`). -/
def rdyAfter (v : Word) (level : Bool) : Option (Bool × Bool) :=
  after (fun t => (t.regs.rduArm, t.regs.rduFlag)) (machine { Regs.reset with rduArm := true, sync2 := level } [wr .rdy v] [])

theorem test_wr_rdy_no_fall :
    [0x0#32, 0x1#32, 0x2#32, 0x3#32, 0x4#32, 0x5#32, 0x6#32, 0x7#32].map (rdyAfter · true) =
      [some (true, false), some (true, false), some (false, false), some (false, false), some (true, false),
        some (true, false), some (false, false), some (false, false)] := by decide
theorem test_wr_rdy_fall :
    [0x0#32, 0x1#32, 0x2#32, 0x3#32, 0x4#32, 0x5#32, 0x6#32, 0x7#32].map (rdyAfter · false) =
      [some (false, true), some (true, false), some (false, true), some (false, true), some (false, true),
        some (true, false), some (false, true), some (false, true)] := by decide

/-! ### The units and the engine (95_test_vectors.md 2.3 to 2.7) -/

theorem test_sync_step :
    after (fun t => (t.regs.sync1, t.regs.sync2)) (machine { Regs.reset with sync2 := false } [] [false]) =
      some (false, true) := by decide
theorem test_rdu_step :
    rowAfter .rduStep (fun t => (t.nxt.rduPrev, t.req.capture))
      (machine { Regs.reset with rduArm := true, sync2 := false } [] []) = some (false, true) := by decide
theorem test_pin_mux :
    rowAfter .pinMux (fun t => t.out.sck) (machine { Regs.reset with ctrlScksw := true } [] []) = some true ∧
    rowAfter .pinMux (fun t => t.out.sck) (machine { Regs.reset with ctrlEn := true, ctrlScksw := true } [] []) =
      some false := by decide
theorem test_stopped_holds_counters :
    after (fun t => (t.regs.st, t.regs.sckEng, t.regs.pcnt, t.regs.acc))
      (machine { Regs.reset with st := .low, sckEng := true, pcnt := 0x17#32, acc := 1#32 } [] []) =
      some (.idle, false, 0x17#32, 1#32) := by decide
theorem test_idle_loads_hybrid :
    after (fun t => (t.regs.st, t.regs.sckEng, t.regs.tcnt, t.regs.pcnt, t.regs.txq))
      (machine { Regs.reset with ctrlEn := true, txq := [0#32, 24#32] } [] []) = some (.high, true, 1#8, 24#32, []) := by decide
theorem test_idle_waits_for_two_words :
    after (fun t => (t.regs.st, t.regs.txq)) (machine { Regs.reset with ctrlEn := true, txq := [5#32] } [] []) =
      some (.idle, [5#32]) := by decide
theorem test_wait_timeout :
    after (fun t => (t.regs.st, t.regs.acc, t.regs.toFlag)) (machine { Regs.reset with ctrlEn := true, st := .wait } [] []) =
      some (.push, 0xFFFFFFFF#32, true) := by decide
theorem test_wait_ready_keeps_budget :
    after (fun t => (t.regs.st, t.regs.wcnt, t.regs.sckEng))
      (machine { Regs.reset with ctrlEn := true, st := .wait, wcnt := 5#32, sync2 := false } [] []) =
      some (.high, 5#32, true) := by decide
theorem test_high_ends :
    after (fun t => (t.regs.st, t.regs.sckEng, t.regs.tcnt))
      (machine { Regs.reset with ctrlEn := true, st := .high, sckEng := true, tLo := 2#8 } [] []) = some (.low, false, 2#8) := by
  decide
theorem test_low_samples :
    after (fun t => (t.regs.st, t.regs.acc, t.regs.pcnt))
      (machine { Regs.reset with ctrlEn := true, st := .low, acc := 0x80000001#32, pcnt := 1#32 } [] []) =
      some (.high, 0x00000003#32, 0#32) := by decide
theorem test_low_ends_train :
    after (fun t => (t.regs.st, t.regs.acc))
      (machine { Regs.reset with ctrlEn := true, st := .low, acc := 1#32, sync2 := false } [] []) = some (.push, 2#32) := by
  decide
theorem test_push_delivers :
    after (fun t => (t.regs.st, t.regs.rxq)) (machine { Regs.reset with ctrlEn := true, st := .push, acc := 0xFFFFFE#32 } [] []) =
      some (.idle, [0xFFFFFE#32]) := by decide
theorem test_push_holds :
    after (fun t => (t.regs.st, t.out.rdata, t.regs.rxq.length))
      (machine { Regs.reset with ctrlEn := true, st := .push, rxq := [1#32, 2#32, 3#32, 4#32] } [rd .status] []) =
      some (.push, 0x0008140C#32, 4) := by decide
theorem test_push_flushed :
    after (fun t => (t.regs.st, t.regs.rxq)) (machine { Regs.reset with ctrlEn := true, st := .push } [wr .ctrl 0x11#32] []) =
      some (.idle, []) := by decide
theorem test_stop_mid_train :
    after (fun t => (t.regs.st, t.regs.sckPin))
      (machine { Regs.reset with ctrlEn := true, st := .high, sckEng := true, tcnt := 1#8 } [wr .ctrl 0x4#32] []) =
      some (.high, true) := by decide
theorem test_rsvd5_refused : exec .engRsvd5 State.reset = .refused (.reservedEngineState 5) := rfl
theorem test_rsvd6_refused : exec .engRsvd6 State.reset = .refused (.reservedEngineState 6) := rfl
theorem test_rsvd7_refused : exec .engRsvd7 State.reset = .refused (.reservedEngineState 7) := rfl

/-! ### Decode and the interrupt line (95_test_vectors.md 2.8, 2.9) -/

theorem test_decode_result :
    [decodeResult 0x00FFFFFE#32 .m1, decodeResult 0x01000001#32 .m1, decodeResult 0x01FFFFFE#32 .m1,
      decodeResult 0x07FFFFF8#32 .m3, decodeResult 0x02000003#32 .m2, decodeResult 0x12345678#32 .m2,
      decodeResult 0x00000001#32 .m1] = [8388607, -8388608, -1, -1, -8388608, -7531106, 0] := by decide
theorem test_sentinel : resultOf 0xFFFFFFFF#32 .m1 = .sensorTimeout := by decide
theorem test_pulse_counts : [Mode.m1, .m2, .m3].map Mode.pulsesWord = [0x18#32, 0x19#32, 0x1A#32] := by decide
theorem test_irq :
    after (fun t => t.out.irq) (machine { Regs.reset with rxq := [1#32], ieRxne := true } [] []) = some true ∧
    after (fun t => t.out.irq) (machine { Regs.reset with rduFlag := true } [] []) = some false := by decide

/-! ### Witnesses: the hypotheses of the statements can be met, each clause at a boundary -/

/-- A running engine with the registers of reset. -/
def running : Regs := { Regs.reset with ctrlEn := true }

/-- The state in a reset cycle. -/
def inReset : State := { State.reset with inp := { Inputs.reset with rstN := false }, env := { rst := [false], data := [] } }

theorem witness_running_ports : State.reset.inp.rstN = true := by decide
theorem witness_ResultReadPopsOrHolds :
    (machine { Regs.reset with rxq := [7#32] } [] []).inp.rstN = true ∧
    (machine { Regs.reset with rxq := [7#32] } [] []).regs.rxq = 7#32 :: [] ∧ State.reset.regs.rxq = [] := by decide
theorem witness_NoTransactionInReset : inReset.inp.rstN = false := by decide
theorem witness_IdleLoadsJob :
    (machine { running with txq := [0#32, 24#32] } [] []).regs.txq = 0#32 :: 24#32 :: [] ∧
    (machine { running with txq := [0#32] } [] []).regs.txq.length < 2 := by decide
theorem witness_WaitPollsLevel :
    (machine { running with sync2 := false } [] []).regs.sync2 = false ∧
    (machine running [] []).regs.sync2 = true ∧ (machine running [] []).regs.wcnt = 0#32 ∧
    (machine { running with wcnt := 1#32 } [] []).regs.sync2 = true ∧
    (machine { running with wcnt := 1#32 } [] []).regs.wcnt ≠ 0#32 := by decide
theorem witness_half_periods :
    (machine { running with tcnt := 1#8 } [] []).regs.tcnt ≠ 0#8 ∧ (machine running [] []).regs.tcnt = 0#8 ∧
    (machine running [] []).regs.pcnt = 0#32 ∧ (machine { running with pcnt := 1#32 } [] []).regs.tcnt = 0#8 ∧
    (machine { running with pcnt := 1#32 } [] []).regs.pcnt ≠ 0#32 := by decide
theorem witness_PushDeliversOrHolds :
    (machine { running with rxq := [1#32, 2#32, 3#32] } [] []).regs.rxq.length < 4 ∧
    4 ≤ (machine { running with rxq := [1#32, 2#32, 3#32, 4#32] } [] []).regs.rxq.length := by decide
theorem witness_StepRunsDecodedRows :
    (machine running [rd .rxf] []).host.move = .ok (.present 0x8#4 0#32) ∧ (machine running [] []).host.move = .ok .quiet ∧
    (machine running [.construct .hybrid 4] []).host.move = .error .invalidInitialMode := by decide
theorem witness_StepIsTotal : (machine running [rd .rxf] []).host.move = .ok (.present 0x8#4 0#32) := by decide
theorem witness_RowOrderDoesNotMatter :
    ((machine running [] []).rows .quiet).reverse.Perm ((machine running [] []).rows .quiet) := List.reverse_perm _

/-- A host about to access byte `k` of the window. -/
def accesses (we : Bool) (k size : Nat) (w : Word) : State := machine Regs.reset [.mem we (Config.baseAddr + k) size w] []

theorem witness_WindowAccesses :
    ((accesses true 31 2 0#32).Next (.mem true (Config.baseAddr + 31) 2 0#32) [] ∧
      Config.baseAddr ≤ Config.baseAddr + 31 ∧ Config.baseAddr + 31 < Config.baseAddr + 32 ∧ 2 ≠ 4) ∧
    ((accesses false 2 4 0#32).Next (.mem false (Config.baseAddr + 2) 4 0#32) [] ∧
      Config.baseAddr ≤ Config.baseAddr + 2 ∧ Config.baseAddr + 2 < Config.baseAddr + 32 ∧ (Config.baseAddr + 2) % 4 ≠ 0) ∧
    ((accesses true 28 4 9#32).Next (.mem true (Config.baseAddr + 28) 4 9#32) [] ∧
      Config.baseAddr ≤ Config.baseAddr + 28 ∧ Config.baseAddr + 28 < Config.baseAddr + 32 ∧ (Config.baseAddr + 28) % 4 = 0) := by
  refine ⟨⟨rfl, ?_⟩, ⟨rfl, ?_⟩, rfl, ?_⟩ <;> unfold Config.baseAddr <;> omega

theorem witness_OutputEquations : ∃ t, step (machine running [rd .rxf] []) = .next t := ⟨_, rfl⟩
theorem witness_ResetCycle : inReset.host.move = .ok .quiet ∧ inReset.env.rstN = false := by decide

/-- The host's moves that the combination statements tell apart, each with a step it can make. -/
theorem witness_combinations :
    (∃ t, (machine running [wr .ctrl 0x18#32] []).host.move = .ok (.present 0x1#4 0x18#32) ∧
      (machine running [wr .ctrl 0x18#32] []).Running ∧ step (machine running [wr .ctrl 0x18#32] []) = .next t) ∧
    (∃ t, (machine { running with txq := [1#32, 2#32, 3#32] } [wr .txf 9#32] []).host.move = .ok (.present 0x7#4 9#32) ∧
      (machine { running with txq := [1#32, 2#32, 3#32] } [wr .txf 9#32] []).regs.txq.length < 4 ∧
      (machine { running with txq := [1#32, 2#32, 3#32] } [wr .txf 9#32] []).Running ∧
      step (machine { running with txq := [1#32, 2#32, 3#32] } [wr .txf 9#32] []) = .next t) ∧
    (∃ t, (machine { running with txq := [1#32, 2#32, 3#32, 4#32] } [wr .txf 9#32] []).host.move = .ok (.present 0x7#4 9#32) ∧
      4 ≤ (machine { running with txq := [1#32, 2#32, 3#32, 4#32] } [wr .txf 9#32] []).regs.txq.length ∧
      (machine { running with txq := [1#32, 2#32, 3#32, 4#32] } [wr .txf 9#32] []).Running ∧
      step (machine { running with txq := [1#32, 2#32, 3#32, 4#32] } [wr .txf 9#32] []) = .next t) ∧
    (∃ t, (machine running [rd .rxf] []).host.move = .ok (.present 0x8#4 0#32) ∧ (machine running [rd .rxf] []).Running ∧
      step (machine running [rd .rxf] []) = .next t) ∧
    (∃ t, (machine running [wr .status 0x30000#32] []).host.move = .ok (.present 0x3#4 0x30000#32) ∧
      (machine running [wr .status 0x30000#32] []).Running ∧ step (machine running [wr .status 0x30000#32] []) = .next t) ∧
    (∃ t, (machine running [wr .rdy 0x5#32] []).host.move = .ok (.present 0xB#4 0x5#32) ∧
      (machine running [wr .rdy 0x5#32] []).Running ∧ step (machine running [wr .rdy 0x5#32] []) = .next t) ∧
    (∃ t, (machine running [] []).host.move = .ok .quiet ∧ (machine running [] []).Running ∧
      step (machine running [] []) = .next t) :=
  ⟨⟨_, rfl, rfl, rfl⟩, ⟨_, rfl, by decide, rfl, rfl⟩, ⟨_, rfl, by decide, rfl, rfl⟩, ⟨_, rfl, rfl, rfl⟩, ⟨_, rfl, rfl, rfl⟩,
    ⟨_, rfl, rfl, rfl⟩, ⟨_, rfl, rfl, rfl⟩⟩

theorem witness_RegisterWriteFrame :
    (machine running [wr .ctrl 0x18#32] []).Running ∧ (machine running [wr .ctrl 0x18#32] []).Presents 0x1#4 0x18#32 ∧
    (machine running [wr .timing 0x18#32] []).Running ∧ (machine running [wr .timing 0x18#32] []).Presents 0x5#4 0x18#32 ∧
    (machine running [wr .ie 0x7#32] []).Running ∧ (machine running [wr .ie 0x7#32] []).Presents 0xD#4 0x7#32 :=
  ⟨rfl, rfl, rfl, rfl, rfl, rfl⟩
theorem witness_CommandWriteFrame :
    (machine running [wr .status 0x10000#32] []).Running ∧ (machine running [wr .status 0x10000#32] []).Presents 0x3#4 0x10000#32 ∧
    (machine running [wr .txf 0x18#32] []).Running ∧ (machine running [wr .txf 0x18#32] []).Presents 0x7#4 0x18#32 ∧
    (machine running [wr .rdy 0x7#32] []).Running ∧ (machine running [wr .rdy 0x7#32] []).Presents 0xB#4 0x7#32 :=
  ⟨rfl, rfl, rfl, rfl, rfl, rfl⟩
theorem witness_NoSideEffects :
    (machine running [wr .rsvd 1#32] []).Running ∧ (machine running [wr .rsvd 1#32] []).Presents 0xF#4 1#32 ∧
    0xF#4 ∈ [0x0#4, 0x2#4, 0x4#4, 0x6#4, 0xA#4, 0xC#4, 0xE#4, 0x9#4, 0xF#4] := ⟨rfl, rfl, by decide⟩
theorem witness_ResultReadFrame :
    (machine { running with rxq := [7#32] } [rd .rxf] []).Running ∧
    (machine { running with rxq := [7#32] } [rd .rxf] []).Presents 0x8#4 0#32 ∧
    (machine { running with rxq := [7#32] } [rd .rxf] []).regs.rxq = 7#32 :: [] ∧
    (machine running [rd .rxf] []).Presents 0x8#4 0#32 ∧ (machine running [rd .rxf] []).regs.rxq = [] := ⟨rfl, rfl, rfl, rfl, rfl⟩
theorem witness_HeldTransactionRepeats :
    ∃ t, (machine running [rd .rxf] []).Presents 0x8#4 0#32 ∧ step (machine running [rd .rxf] []) = .next t ∧ t.out.ack = false :=
  ⟨_, rfl, rfl, rfl⟩
theorem witness_SynchroniserShifts : ∃ t, (machine running [] [false]).Running ∧ step (machine running [] [false]) = .next t :=
  ⟨_, rfl, rfl⟩
theorem witness_two_machines :
    ∃ t u v w x, step (machine running [rd .status] [false]) = .next t ∧
      step { machine running [rd .status] [false] with env := { (machine running [rd .status] [false]).env with data := [] }, cycle := 5 } = .next u ∧
      step { machine running [rd .status] [false] with host := HostAgent.reset } = .next v ∧
      step { machine running [rd .status] [false] with regs := { running with rduArm := true, rduFlag := true, rduPrev := false } } = .next w ∧
      step { machine running [rd .status] [false] with
        regs := { running with
          ctrlEn := true, ctrlWaitrdy := true, ctrlScksw := true, sckEng := true, st := .high, wcnt := 1#32, pcnt := 1#32
          acc := 1#32, tcnt := 1#8 } } = .next x := ⟨_, _, _, _, _, rfl, rfl, rfl, rfl, rfl⟩
theorem witness_DisarmedStaysDisarmed :
    ∃ t, (machine running [wr .rdy 0x3#32] []).host.move = .ok (.present 0xB#4 0x3#32) ∧
      step (machine running [wr .rdy 0x3#32] []) = .next t ∧ (machine running [wr .rdy 0x3#32] []).regs.rduArm = false ∧
      (∀ v, Move.present 0xB#4 0x3#32 = .present 0xB#4 v → v.getLsbD 0 = false ∨ v.getLsbD 1 = true) :=
  ⟨_, rfl, rfl, rfl, fun v h => by cases h; decide⟩
theorem witness_StopAbortsJob :
    (machine { Regs.reset with st := .low } [] []).Running ∧ (machine { Regs.reset with st := .low } [] []).regs.ctrlEn = false :=
  ⟨rfl, rfl⟩
theorem witness_StepKeepsInvariant :
    ∃ t, (machine { running with txq := [1#32, 2#32, 3#32, 4#32], rxq := [1#32, 2#32, 3#32] } [] []).Inv ∧
      step (machine { running with txq := [1#32, 2#32, 3#32, 4#32], rxq := [1#32, 2#32, 3#32] } [] []) = .next t :=
  ⟨_, ⟨⟨by decide, by decide, by decide⟩, rfl, rfl⟩, rfl⟩
theorem witness_HungStaysHung : (machine Regs.reset [rd .rxf] []).Hung := ⟨⟨0#32, rfl⟩, rfl, rfl⟩

/-- An engine at the start of a pulse: HIGH, the line high, the half-period loaded (`H = L = 2`, two pulses). -/
def pulseStart : Regs := { running with st := .high, sckEng := true, tcnt := 1#8, pcnt := 1#32 }

/-- A cycle of a regular machine, shown by the machine itself. -/
theorem regular_succ {k : Nat} {s t : State} {m : Move} (hr : s.Running) (hm : s.host.move = .ok m)
    (hw : ∀ v, m ≠ .present 0x1#4 v ∧ m ≠ .present 0x5#4 v) (hs : step s = .next t) (hk : t.Regular k) : s.Regular (k + 1) :=
  ⟨hr, ⟨m, hm, hw⟩, fun u hu => by obtain rfl := Host.Outcome.next.inj (hs.symm.trans hu); exact hk⟩

/-- A host that is busy on the bus while a train runs, and held at an empty result FIFO at its end. -/
def busy (r : Regs) (line : List Bool) : State := machine r [wr .ie 0x7#32, rd .status, rd .rxf] line

/-- The first two cycles of the busy host; a host held at `RD_RXF` is regular too, shown in `witness_TrainWaveform`. -/
theorem witness_HighHalfPeriod :
    (busy pulseStart []).regs.ctrlEn = true ∧ (busy pulseStart []).regs.st = .high ∧
    (busy pulseStart []).Regular ((busy pulseStart []).regs.tcnt.toNat + 1) := by
  refine ⟨rfl, rfl, ?_⟩
  iterate 2 refine regular_succ rfl rfl (fun _ => ⟨nofun, nofun⟩) rfl ?_
  trivial

/-- The last pulse and one before it, two cycles before the sample. -/
theorem witness_LowHalfPeriod :
    ∀ p ∈ [0#32, 1#32],
      (busy { running with st := .low, pcnt := p, tcnt := 1#8 } []).regs.ctrlEn = true ∧
      (busy { running with st := .low, pcnt := p, tcnt := 1#8 } []).regs.st = .low ∧
      (busy { running with st := .low, pcnt := p, tcnt := 1#8 } []).Regular 2 ∧
      (busy { running with st := .low, pcnt := p, tcnt := 1#8 } []).regs.tcnt.toNat + 1 = 2 := by
  refine List.forall_mem_cons.2 ⟨⟨rfl, rfl, ?_, rfl⟩, List.forall_mem_singleton.2 ⟨rfl, rfl, ?_, rfl⟩⟩ <;>
    (iterate 2 refine regular_succ rfl rfl (fun _ => ⟨nofun, nofun⟩) rfl ?_) <;> trivial

/-- The last cycle of a train of two pulses under the busy host. -/
theorem witness_TrainWaveform :
    (busy pulseStart []).Inv ∧ (busy pulseStart []).regs.ctrlEn = true ∧ (busy pulseStart []).regs.st = .high ∧
    (busy pulseStart []).regs.tcnt = (busy pulseStart []).regs.tHi ∧
    7 < pulsesOf (busy pulseStart []).regs.pcnt * (busy pulseStart []).regs.pulseCycles ∧ (busy pulseStart []).Regular 7 := by
  refine ⟨⟨⟨by decide, by decide, by decide⟩, rfl, rfl⟩, rfl, rfl, rfl, by decide, ?_⟩
  iterate 7 refine regular_succ rfl rfl (fun _ => ⟨nofun, nofun⟩) rfl ?_
  trivial

/-- The levels of a train of two pulses of four cycles, under the busy host. -/
theorem witness_TrainSamplesEachPulse :
    (busy pulseStart [true, false, true, false, true, false]).regs.ctrlEn = true ∧
    (busy pulseStart [true, false, true, false, true, false]).regs.st = .high ∧
    (busy pulseStart [true, false, true, false, true, false]).regs.tcnt = pulseStart.tHi ∧
    (busy pulseStart [true, false, true, false, true, false]).Line [true, false, true, false, true, false] ∧
    pulsesOf pulseStart.pcnt * pulseStart.pulseCycles ≤ [true, false, true, false, true, false].length + 2 ∧
    (busy pulseStart [true, false, true, false, true, false]).Regular (pulsesOf pulseStart.pcnt * pulseStart.pulseCycles) := by
  refine ⟨rfl, rfl, rfl, List.prefix_refl _, by decide, ?_⟩
  iterate 8 refine regular_succ rfl rfl (fun _ => ⟨nofun, nofun⟩) rfl ?_
  trivial
theorem witness_TrainSamplesEachPulse_quiet : (machine pulseStart [] []).Quiet := ⟨rfl, rfl⟩

/-- A hybrid job of one pulse: a busy host with room in the result FIFO, a full one, and a quiet machine. -/
theorem witness_HybridJobDelivers :
    (∀ q ∈ [[1#32, 2#32, 3#32], [1#32, 2#32, 3#32, 4#32]],
      (machine { running with txq := [0#32, 0#32], rxq := q } [wr .ie 0x7#32, rd .status] [true, false, true]).regs.ctrlWaitrdy = false ∧
      (machine { running with txq := [0#32, 0#32], rxq := q } [wr .ie 0x7#32, rd .status] [true, false, true]).regs.st = .idle ∧
      (machine { running with txq := [0#32, 0#32], rxq := q } [wr .ie 0x7#32, rd .status] [true, false, true]).Line
        [true, false, true] ∧
      (machine { running with txq := [0#32, 0#32], rxq := q } [wr .ie 0x7#32, rd .status] [true, false, true]).Regular 6) ∧
    pulsesOf 0#32 * running.pulseCycles ≤ [true, false, true].length + 1 ∧ 1 + pulsesOf 0#32 * running.pulseCycles + 1 = 6 ∧
    (machine { running with txq := [0#32, 0#32] } [] [true, false, true]).Quiet ∧
    (machine { running with txq := [0#32, 0#32] } [] [true, false, true]).Regular 6 := by
  refine ⟨List.forall_mem_cons.2 ⟨⟨rfl, rfl, List.prefix_refl _, ?_⟩,
      List.forall_mem_singleton.2 ⟨rfl, rfl, List.prefix_refl _, ?_⟩⟩, by decide, by decide, ⟨rfl, rfl⟩,
      State.Quiet.regular ⟨rfl, rfl⟩ 6⟩ <;>
    (iterate 6 refine regular_succ rfl rfl (fun _ => ⟨nofun, nofun⟩) rfl ?_) <;> trivial

/-- A self-contained job with budget 1 and one pulse, and a line that falls two cycles later. -/
def polling (prog : List HostOp) : State :=
  machine { running with ctrlWaitrdy := true, txq := [1#32, 0#32] } prog [false, true, true, true, true]

theorem witness_SelfContainedJobDelivers :
    (∀ prog ∈ [[], [rd .rxf]],
      (polling prog).regs.ctrlEn = true ∧ (polling prog).regs.ctrlWaitrdy = true ∧ (polling prog).regs.st = .idle ∧
      (polling prog).regs.txq = 1#32 :: 0#32 :: [] ∧ (polling prog).regs.rxq.length < 4 ∧
      (polling prog).Line [false, true, true, true, true]) ∧
    2 + pulsesOf 0#32 * running.pulseCycles ≤ [false, true, true, true, true].length + 1 ∧ 1 ≤ 2 ∧
    2 ≤ (1#32 : Word).toNat + 1 ∧ 2 + 1 + pulsesOf 0#32 * running.pulseCycles + 1 = 8 ∧
    (∀ j, 1 ≤ j → j < 2 → ((polling []).regs.sync2 :: (polling []).regs.sync1 :: [false, true, true, true, true])[j]? = some true) ∧
    ((polling []).regs.sync2 :: (polling []).regs.sync1 :: [false, true, true, true, true])[2]? = some false ∧
    (polling []).Quiet ∧ (polling []).Regular 8 ∧ (polling [rd .rxf]).Regular 8 := by
  refine ⟨fun _ _ => ⟨rfl, rfl, rfl, rfl, Nat.zero_lt_succ 3, List.prefix_refl _⟩, by decide, by decide, by decide, by decide, ?_, rfl,
    ⟨rfl, rfl⟩, State.Quiet.regular ⟨rfl, rfl⟩ 8, ?_⟩
  · intro j h1 h2
    obtain rfl : j = 1 := by omega
    rfl
  · iterate 8 refine regular_succ rfl rfl (fun _ => ⟨nofun, nofun⟩) rfl ?_
    trivial

/-- Budget `b` on a line that stays high. -/
def timingOut (b : Word) (rxq : List Word) (prog : List HostOp) : State :=
  machine { running with ctrlWaitrdy := true, txq := [b, 24#32], rxq := rxq } prog (List.replicate b.toNat true)

/-- Budgets 0 and 2 (95_test_vectors.md 2.4), quiet; and budget 0 under a host that clears `to_flag`, with room and full. -/
theorem witness_TimeoutCount :
    (∀ b ∈ [0#32, 2#32], ∀ q prog,
      (timingOut b q prog).regs.ctrlEn = true ∧ (timingOut b q prog).regs.ctrlWaitrdy = true ∧
      (timingOut b q prog).regs.st = .idle ∧ (timingOut b q prog).regs.txq = b :: 24#32 :: [] ∧
      (timingOut b q prog).regs.sync1 = true ∧ (timingOut b q prog).Line (List.replicate b.toNat true)) ∧
    (∀ b ∈ [0#32, 2#32], (timingOut b [] []).Quiet ∧ (timingOut b [] []).Regular (b.toNat + 3) ∧
      (timingOut b [] []).regs.rxq.length < 4) ∧
    ∀ q ∈ [[1#32, 2#32, 3#32], [1#32, 2#32, 3#32, 4#32]],
      (timingOut 0#32 q [rd .status, wr .status 0x10000#32]).Regular ((0#32 : Word).toNat + 3) := by
  refine ⟨fun _ _ _ _ => ⟨rfl, rfl, rfl, rfl, rfl, List.prefix_refl _⟩,
    fun _ _ => ⟨⟨rfl, rfl⟩, State.Quiet.regular ⟨rfl, rfl⟩ _, Nat.zero_lt_succ 3⟩, ?_⟩
  refine List.forall_mem_cons.2 ⟨?_, List.forall_mem_singleton.2 ?_⟩ <;> (iterate 3 refine regular_succ rfl rfl (fun _ => ⟨nofun, nofun⟩) rfl ?_) <;> trivial

theorem witness_RawWordBits : 31 < 32 ∧ 31 < (List.replicate 33 true).length ∧ (List.replicate 31 true).length ≤ 31 := by decide
theorem witness_DecodeIsSignExtension :
    ((0x00FFFFFE#32 : Word) >>> Mode.m1.toNat).extractLsb' 0 24 = 0x7FFFFF#24 ∧
    ((0x01000001#32 : Word) >>> Mode.m1.toNat).extractLsb' 0 24 = 0x800000#24 ∧
    ((0x01FFFFFE#32 : Word) >>> Mode.m1.toNat).extractLsb' 0 24 = 0xFFFFFF#24 ∧
    (0x01FFFFFF#32 : Word).toNat < 2 ^ (24 + Mode.m1.toNat) := by decide
theorem witness_DecodeReadsChipBits :
    (List.replicate 24 true).length = 24 ∧ (List.replicate 3 true).length = Mode.m3.toNat := by decide
theorem witness_PseudoInstructions :
    ∃ t, (machine running [wr .ctrl 0x5#32] []).Next (wr .ctrl 0x5#32) [] ∧
      (machine running [wr .ctrl 0x5#32] []).Presents 0x1#4 0x5#32 ∧ step (machine running [wr .ctrl 0x5#32] []) = .next t ∧
      t.out.ack = true := ⟨_, rfl, rfl, rfl, rfl⟩
theorem witness_modes :
    (machine running [.setMode 3] []).Next (.setMode 3) [] ∧ (machine running [.setMode 4] []).Next (.setMode 4) [] ∧
    (machine running [.construct .hybrid 3] []).Next (.construct .hybrid 3) [] ∧
    (machine running [.construct .hybrid 0] []).Next (.construct .hybrid 0) [] ∧
    ¬ ((4 : Int) = 1 ∨ (4 : Int) = 2 ∨ (4 : Int) = 3) ∧ ¬ ((0 : Int) = 1 ∨ (0 : Int) = 2 ∨ (0 : Int) = 3) :=
  ⟨rfl, rfl, rfl, rfl, by decide, by decide⟩
/-- A host of backend `b` at the item `op`. -/
def atItem (b : Backend) (op : HostOp) : State :=
  { machine running [] [] with host := { HostAgent.reset with prog := [op], backend := b } }

/-- A read of each backend, the bit-bang loop at its end and with pulses to go, and each item between transactions. -/
theorem witness_ReadSequences :
    (∀ b ∈ [Backend.selfContained 10#32, .hybrid, .bitBang 0 1],
      (atItem b .read).Next .read [] ∧ (atItem b .readBody).Next .readBody [] ∧ (atItem b .readBody).host.backend = b) ∧
    (∀ left ∈ [0, 27],
      (atItem (.bitBang 0 1) (.pulses left)).Next (.pulses left) [] ∧
      (atItem (.bitBang 0 1) (.pulses left)).host.backend = .bitBang 0 1) ∧
    (atItem .hybrid .clearAcc).Next .clearAcc [] ∧ (atItem .hybrid .maskInts).Next .maskInts [] ∧
    (atItem .hybrid .restoreInts).Next .restoreInts [] ∧ (atItem .hybrid .shiftIn).Next .shiftIn [] ∧
    (atItem .hybrid .decodeAcc).Next .decodeAcc [] ∧ (atItem .hybrid .decodeWord).Next .decodeWord [] ∧
    (atItem .hybrid .discard).Next .discard [] ∧ (atItem .hybrid (.idle (0 + 1))).Next (.idle (0 + 1)) [] :=
  ⟨fun _ _ => ⟨rfl, rfl, rfl⟩, fun _ _ => ⟨rfl, rfl⟩, rfl, rfl, rfl, rfl, rfl, rfl, rfl, rfl⟩
/-- The flag seen; the last poll without it; a poll without it with one more allowed. -/
theorem witness_ReadyWaitPolls :
    (∀ w ∈ [0x2#32, 0x1#32], ∀ left ∈ [0, 1],
      { machine running [] [] with host := { HostAgent.reset with prog := [.readyTest left], rdata := w } }.Next (.readyTest left) []) ∧
    (0x2#32 : Word).getLsbD 1 = true ∧ (0x1#32 : Word).getLsbD 1 = false := ⟨fun _ _ _ _ => rfl, by decide, by decide⟩
/-- The sentinel and another word; and the exhausted ready wait of a warm-up read, with a second one behind it. -/
theorem witness_SentinelRaisesTimeout :
    (∀ w ∈ [0xFFFFFFFF#32, 0xFFFFFFFE#32],
      { machine running [] [] with
        host := { HostAgent.reset with prog := [.sentinelTest, .decodeWord, .ret, .read], rdata := w } }.Next .sentinelTest
          ([HostOp.decodeWord] ++ HostOp.ret :: [HostOp.read])) ∧ HostOp.ret ∉ [HostOp.decodeWord] ∧
    (machine running [.raiseTimeout, .clearAcc, .pulses 25, .discard, .readBody, .discard, .ret, .read] []).Next .raiseTimeout
      ([HostOp.clearAcc, .pulses 25, .discard, .readBody, .discard] ++ HostOp.ret :: [HostOp.read]) ∧
    HostOp.ret ∉ [HostOp.clearAcc, .pulses 25, .discard, .readBody, .discard] :=
  ⟨fun _ _ => rfl, by decide, rfl, by decide⟩

end Sys2Proof.Tests
end

section
/-! The order of the rows (O22, log 1). In a cycle that starts from the registers `r`, every row answers a next state
given by an effect that decides from the pre-cycle registers and the inputs only. Any two effects of one cycle commute,
since no two rows propose for the same element (R144), so the rows may be run in any order. -/

namespace Sys2Proof.Machine

/-! ### The engine's proposals beside the other rows' -/

variable (r nxt : Regs) (q : Requests)

theorem engineNxt_setSync (a b : Bool) :
    engineNxt r { nxt with sync1 := a, sync2 := b } = { engineNxt r nxt with sync1 := a, sync2 := b } := by
  unfold engineNxt
  (repeat' split) <;> rfl

theorem engineNxt_setRduPrev (a : Bool) :
    engineNxt r { nxt with rduPrev := a } = { engineNxt r nxt with rduPrev := a } := by
  unfold engineNxt
  (repeat' split) <;> rfl

theorem engineNxt_withCtrl (v : Word) : engineNxt r (nxt.withCtrl v) = (engineNxt r nxt).withCtrl v := by
  unfold engineNxt
  (repeat' split) <;> rfl

theorem engineNxt_withTiming (v : Word) : engineNxt r (nxt.withTiming v) = (engineNxt r nxt).withTiming v := by
  unfold engineNxt
  (repeat' split) <;> rfl

theorem engineNxt_withIe (v : Word) : engineNxt r (nxt.withIe v) = (engineNxt r nxt).withIe v := by
  unfold engineNxt
  (repeat' split) <;> rfl

/-- The host writes no element of the engine's (R144). -/
theorem engineNxt_moveNxt (m : Move) : engineNxt r (moveNxt nxt m) = moveNxt (engineNxt r nxt) m := by
  unfold moveNxt
  (repeat' split) <;> simp only [engineNxt_withCtrl, engineNxt_withTiming, engineNxt_withIe]

theorem engineReq_setCapture (b : Bool) :
    engineReq r { q with capture := b } = { engineReq r q with capture := b } := by
  unfold engineReq
  (repeat' split) <;> rfl

/-- The host makes none of the engine's requests (R144). -/
theorem engineReq_moveReq (m : Move) : engineReq r (moveReq q m) = moveReq (engineReq r q) m := by
  unfold moveReq
  (repeat' split) <;> (unfold engineReq; (repeat' split) <;> rfl)

/-! ### The host's proposals beside the units' -/

theorem moveNxt_setSync (m : Move) (a b : Bool) :
    moveNxt { nxt with sync1 := a, sync2 := b } m = { moveNxt nxt m with sync1 := a, sync2 := b } := by
  unfold moveNxt
  (repeat' split) <;> rfl

theorem moveNxt_setRduPrev (m : Move) (a : Bool) :
    moveNxt { nxt with rduPrev := a } m = { moveNxt nxt m with rduPrev := a } := by
  unfold moveNxt
  (repeat' split) <;> rfl

theorem moveReq_setCapture (m : Move) (b : Bool) :
    moveReq { q with capture := b } m = { moveReq q m with capture := b } := by
  unfold moveReq
  (repeat' split) <;> rfl

/-! ### The effect of each row -/

/-- What SYNC_STEP does to a state (R200). -/
def syncEffect (s : State) : State := s.setNxt { s.nxt with sync1 := s.inp.pin, sync2 := s.regs.sync1 }

/-- What RDU_STEP does to a state (R201, R202). -/
def rduEffect (s : State) : State :=
  (s.setNxt { s.nxt with rduPrev := s.regs.sync2 }).setReq { s.req with capture := s.regs.captured }

/-- What PIN_MUX does to a state (R230). -/
def muxEffect (s : State) : State := s.setSck s.regs.sckPin

/-- What the engine's row does to a state whose registers select it. -/
def engineEffect (s : State) : State := (s.setNxt (engineNxt s.regs s.nxt)).setReq (engineReq s.regs s.req)

/-- What a completing move proposes. -/
def proposeMove (m : Move) (s : State) : State := (s.setNxt (moveNxt s.nxt m)).setReq (moveReq s.req m)

/-- What the row of a presented transaction does to a state: it is answered, and proposes where it completes (R149). -/
def hostEffect (cmd : Nibble) (v : Word) (s : State) : State :=
  if s.inp.rstN && moveAck s.regs (.present cmd v) then
    proposeMove (.present cmd v) (s.setBus true (moveRdata s.regs (.present cmd v)))
  else s.setBus false 0#32

/-- In a cycle that starts from `r`, the row `i` answers the next state `f s`, and leaves the pre-cycle registers. -/
def Contributes (r : Regs) (i : Instr) (f : State → State) : Prop :=
  ∀ s : State, s.regs = r → exec i s = .next (f s) ∧ (f s).regs = r

theorem contributes_sync : Contributes r .syncStep syncEffect := fun _ h => ⟨rfl, h⟩

theorem contributes_rdu : Contributes r .rduStep rduEffect := fun _ h => ⟨rfl, h⟩

theorem contributes_mux : Contributes r .pinMux muxEffect := fun _ h => ⟨rfl, h⟩

theorem contributes_engine : Contributes r r.engineRow engineEffect := by
  rintro s rfl
  exact ⟨exec_engineRow s, rfl⟩

theorem contributes_host (cmd : Nibble) (v : Word) : Contributes r (decodeBus cmd v) (hostEffect cmd v) := by
  refine fun s h => ⟨exec_decodeBus s cmd v, ?_⟩
  unfold hostEffect
  split <;> exact h

/-! ### The effects of one cycle commute -/

theorem State.setNxt_setReq_congr (s : State) {n n' : Regs} {p p' : Requests} (hn : n = n') (hp : p = p') :
    (s.setNxt n).setReq p = (s.setNxt n').setReq p' := by rw [hn, hp]

theorem syncEffect_commute_rduEffect : Function.Commute syncEffect rduEffect := fun _ => rfl

theorem syncEffect_commute_muxEffect : Function.Commute syncEffect muxEffect := fun _ => rfl

theorem rduEffect_commute_muxEffect : Function.Commute rduEffect muxEffect := fun _ => rfl

theorem muxEffect_commute_engineEffect : Function.Commute muxEffect engineEffect := fun _ => rfl

theorem syncEffect_commute_engineEffect : Function.Commute syncEffect engineEffect := fun s =>
  s.setNxt_setReq_congr (engineNxt_setSync s.regs s.nxt _ _).symm rfl

theorem rduEffect_commute_engineEffect : Function.Commute rduEffect engineEffect := fun s =>
  s.setNxt_setReq_congr (engineNxt_setRduPrev s.regs s.nxt _).symm
    (engineReq_setCapture s.regs s.req _).symm

/-- An effect that keeps what a transaction's row reads, and commutes with the answer and with the proposals, commutes
with the row's effect. -/
theorem commute_hostEffect {f : State → State} (cmd : Nibble) (v : Word) (hregs : ∀ s, (f s).regs = s.regs)
    (hinp : ∀ s, (f s).inp = s.inp) (hbus : ∀ ack w, Function.Commute f (State.setBus · ack w))
    (hpropose : Function.Commute f (proposeMove (.present cmd v))) : Function.Commute f (hostEffect cmd v) := by
  intro s
  simp only [hostEffect, hregs, hinp]
  split
  · exact (hpropose _).trans (congrArg _ (hbus _ _ s))
  · exact hbus _ _ s

theorem syncEffect_commute_hostEffect (cmd : Nibble) (v : Word) : Function.Commute syncEffect (hostEffect cmd v) :=
  commute_hostEffect cmd v (fun _ => rfl) (fun _ => rfl) (fun _ _ _ => rfl) fun s =>
    s.setNxt_setReq_congr (moveNxt_setSync s.nxt _ _ _).symm rfl

theorem rduEffect_commute_hostEffect (cmd : Nibble) (v : Word) : Function.Commute rduEffect (hostEffect cmd v) :=
  commute_hostEffect cmd v (fun _ => rfl) (fun _ => rfl) (fun _ _ _ => rfl) fun s =>
    s.setNxt_setReq_congr (moveNxt_setRduPrev s.nxt _ _).symm (moveReq_setCapture s.req _ _).symm

/-- The multiplexer drives `sck`, the transaction `ack` and `rdata` (R142). -/
theorem muxEffect_commute_hostEffect (cmd : Nibble) (v : Word) : Function.Commute muxEffect (hostEffect cmd v) :=
  commute_hostEffect cmd v (fun _ => rfl) (fun _ => rfl) (fun _ _ _ => rfl) fun _ => rfl

theorem engineEffect_commute_hostEffect (cmd : Nibble) (v : Word) : Function.Commute engineEffect (hostEffect cmd v) :=
  commute_hostEffect cmd v (fun _ => rfl) (fun _ => rfl) (fun _ _ _ => rfl) fun s =>
    s.setNxt_setReq_congr (engineNxt_moveNxt s.regs s.nxt _) (engineReq_moveReq s.regs s.req _)

/-! ### A cycle's rows as effects -/

/-- The effects of a cycle's rows, in the order of `State.rows`. -/
def rowEffects (m : Move) : List (State → State) :=
  [syncEffect, rduEffect, muxEffect, engineEffect] ++
    match m with
    | .quiet => []
    | .present cmd v => [hostEffect cmd v]

theorem rows_contribute (s : State) (m : Move) : List.Forall₂ (Contributes s.regs) (s.rows m) (rowEffects m) := by
  refine .cons (contributes_sync _) (.cons (contributes_rdu _) (.cons (contributes_mux _)
    (.cons (contributes_engine _) ?_)))
  cases m with
  | quiet => exact .nil
  | present cmd v => exact .cons (contributes_host _ cmd v) .nil

theorem rowEffects_pairwise_commute (m : Move) : (rowEffects m).Pairwise Function.Commute := by
  cases m <;>
    simp [rowEffects, syncEffect_commute_rduEffect, syncEffect_commute_muxEffect, syncEffect_commute_engineEffect,
      rduEffect_commute_muxEffect, rduEffect_commute_engineEffect, muxEffect_commute_engineEffect,
      syncEffect_commute_hostEffect, rduEffect_commute_hostEffect, muxEffect_commute_hostEffect,
      engineEffect_commute_hostEffect]

theorem rowEffects_commute (m : Move) : ∀ f ∈ rowEffects m, ∀ g ∈ rowEffects m, Function.Commute f g :=
  (rowEffects_pairwise_commute m).forall_of_forall_of_flip (fun f _ => Function.Commute.refl f)
    ((rowEffects_pairwise_commute m).imp Function.Commute.symm)

/-- Rows that contribute the effects `fs` to a cycle that starts from `r` answer the effects, one after the other. -/
theorem runRows_eq_foldl {r : Regs} {rows : List Instr} {fs : List (State → State)}
    (h : List.Forall₂ (Contributes r) rows fs) :
    ∀ s : State, s.regs = r → runRows rows s = .next (fs.foldl (fun t f => f t) s) := by
  induction h with
  | nil => exact fun _ _ => rfl
  | cons hi _ ih =>
    intro s hs
    obtain ⟨hexec, hregs⟩ := hi s hs
    rw [runRows, hexec]
    exact ih _ hregs

/-- Settles O22: the reordered rows contribute a permutation of the cycle's effects, which commute. -/
theorem rowOrderDoesNotMatter : Obligations.RowOrderDoesNotMatter := by
  intro s m order hperm
  obtain ⟨fs, horder, hfs⟩ := List.perm_comp_forall₂ hperm (rows_contribute s m)
  have hfold : fs.foldl (fun t f => f t) (s.openCycle m) = (rowEffects m).foldl (fun t f => f t) (s.openCycle m) :=
    hfs.foldl_eq' (fun f hf g hg t => rowEffects_commute m g (hfs.subset hg) f (hfs.subset hf) t) _
  rw [runRows_eq_foldl horder _ (State.openCycle_regs s m),
    runRows_eq_foldl (rows_contribute s m) _ (State.openCycle_regs s m), hfold]

end Sys2Proof.Machine
end

section
/-! Reset and the invariant of the block (10_state.md). A cycle is judged by its closed form (`cycleResult`): in reset it
ends in the reset state, outside it in `nextRegs`, whose FIFOs are bounded by R145 and R146 and whose clock level follows
the engine's state (R222). -/

namespace Sys2Proof.Machine

/-! ### Reset -/

/-- In a reset cycle the transaction's row answers `ack = 0` and proposes nothing (R150). -/
theorem exec_decodeBus_reset {s : State} (h : s.inp.rstN = false) (cmd : Nibble) (w : Word) :
    exec (decodeBus cmd w) s = .next (s.setBus false 0#32) := by
  rw [exec_decodeBus, h]
  rfl

/-- Settles O11: the sixteen operations are the rows that `decodeBus` answers. -/
theorem noTransactionInReset : Obligations.NoTransactionInReset :=
  fun _ cmd w h => exec_decodeBus_reset h cmd w

/-- The ports of a reset cycle: nothing completes, and the two lines are those of the pre-cycle state (R32, R150). -/
theorem cycleResult_out_reset {s : State} (m : Move) (h : s.env.rstN = false) :
    (cycleResult s m).out = { sck := s.regs.sckPin, irq := s.regs.irqLevel, ack := false, rdata := 0#32 } := by
  simp [cycleResult, h]

/-- Settles O26: the closed form of the cycle, with `rst_n` low. -/
theorem resetCycle : Obligations.ResetCycle := by
  intro s m hm hrst
  have hout := cycleResult_out_reset m hrst
  exact ⟨cycleResult s m, step_of_move hm, cycleResult_regs_reset s m hrst, congrArg Outputs.ack hout,
    congrArg Outputs.rdata hout, rfl, rfl⟩

/-- Settles O25: `resetCycle` enters the reset state, and the rest is read off the table of R54. -/
theorem resetValues : Obligations.ResetValues := by
  refine ⟨?_, rfl, rfl, rfl, by decide, by decide⟩
  intro s m hm hrst
  obtain ⟨t, hstep, hregs, -⟩ := resetCycle s m hm hrst
  exact ⟨t, hstep, hregs⟩

/-! ### The invariant -/

theorem Regs.reset_inv : Regs.reset.Inv := ⟨Nat.zero_le _, Nat.zero_le _, rfl⟩

/-- Settles O43: the registers of R54 meet the block's invariant, and the model's own fields hold no proposal. -/
theorem resetMeetsInvariant : Obligations.ResetMeetsInvariant := ⟨Regs.reset_inv, rfl, rfl⟩

/-- The engine delivers only into a result FIFO with room (R228). -/
theorem Regs.room_of_delivers {r : Regs} (h : r.delivers ≠ none) : r.rxq.length < Config.rxDepth := by
  unfold Regs.delivers at h
  split at h
  · next hpush =>
    simp only [Bool.and_eq_true, decide_eq_true_eq] at hpush
    exact hpush.2
  · exact absurd rfl h

/-- Every branch of the engine that changes `st` writes `sck_eng` with it where one of the two states is HIGH, so the line
stays high exactly in HIGH (R222). -/
theorem engineNxt_sckEng_eq_high {r : Regs} (h : r.sckEng = decide (r.st = .high)) :
    (engineNxt r r).sckEng = decide ((engineNxt r r).st = .high) := by
  unfold engineNxt
  (repeat' split) <;> simp_all

/-- A cycle outside reset keeps the block's invariant. -/
theorem nextRegs_inv {r : Regs} (h : r.Inv) (m : Move) (pin : Bool) : (nextRegs r m pin).Inv := by
  obtain ⟨htx, hrx, hsck⟩ := h
  refine ⟨?_, ?_, ?_⟩
  · rw [nextRegs_txq]
    exact Requests.txqNext_length _ _ htx
  · rw [nextRegs_rxq]
    refine Requests.rxqNext_length _ _ hrx fun hpush => ?_
    rw [proposedReq_engPush] at hpush
    exact Regs.room_of_delivers hpush
  · rw [nextRegs_sckEng, nextRegs_st]
    exact engineNxt_sckEng_eq_high hsck

/-- A cycle ends with the invariant, in the reset state or by `nextRegs_inv`. -/
theorem cycleResult_inv {s : State} (h : s.regs.Inv) (m : Move) : (cycleResult s m).Inv := by
  refine ⟨?_, cycleResult_nxt s m, cycleResult_req s m⟩
  cases hrst : s.env.rstN with
  | false =>
    rw [cycleResult_regs_reset s m hrst]
    exact Regs.reset_inv
  | true =>
    rw [cycleResult_regs_running s m hrst]
    exact nextRegs_inv h m _

/-- Settles O42: a step is the closed form of a cycle, which has the invariant whether `rst_n` is low or high. -/
theorem stepKeepsInvariant : Obligations.StepKeepsInvariant := by
  intro s t hinv hstep
  obtain ⟨m, -, rfl⟩ := step_next hstep
  exact cycleResult_inv hinv.1 m

/-! ### The data line -/

/-- The proposals of a cycle depend on the data line in `sync1` alone (R35, R200). -/
theorem proposedRegs_pin (r : Regs) (m : Move) (a b : Bool) :
    proposedRegs r m a = { proposedRegs r m b with sync1 := a } := by
  have hengine : ∀ pin, engineNxt r { r with sync1 := pin, sync2 := r.sync1, rduPrev := r.sync2 } =
      { engineNxt r { r with rduPrev := r.sync2 } with sync1 := pin, sync2 := r.sync1 } :=
    fun pin => engineNxt_setSync r { r with rduPrev := r.sync2 } pin r.sync1
  simp only [proposedRegs, hengine]
  split
  · rw [moveNxt_setSync _ m a, moveNxt_setSync _ m b]
  · rfl

/-- The combination at the clock edge writes no stage of the synchroniser (R145 to R148). -/
theorem nextRegs_pin (r : Regs) (m : Move) (a b : Bool) :
    nextRegs r m a = { nextRegs r m b with sync1 := a } := by
  rw [nextRegs, proposedRegs_pin r m a b]
  rfl

/-- Two cycles from the same registers, with the same `rst_n` and move, end with registers that differ in `sync1` alone. -/
theorem cycleResult_regs_sync1 {s s' : State} (hregs : s'.regs = s.regs) (hrst : s'.env.rstN = s.env.rstN) (m : Move) :
    (cycleResult s m).regs = { (cycleResult s' m).regs with sync1 := (cycleResult s m).regs.sync1 } := by
  cases hr : s.env.rstN with
  | false => rw [cycleResult_regs_reset s m hr, cycleResult_regs_reset s' m (hrst.trans hr)]
  | true =>
    rw [cycleResult_regs_running s m hr, cycleResult_regs_running s' m (hrst.trans hr), hregs, nextRegs_sync1]
    exact nextRegs_pin _ _ _ _

/-- The outputs of a cycle are computed from the registers, `rst_n` and the move (R142). -/
theorem cycleResult_out_congr {s s' : State} (hregs : s'.regs = s.regs) (hrst : s'.env.rstN = s.env.rstN) (m : Move) :
    (cycleResult s m).out = (cycleResult s' m).out := by
  simp only [cycleResult, hregs, hrst]

/-- Settles O37: both machines make the same move in the same registers, and only their data lines differ. -/
theorem pinReachesOnlySync1 : Obligations.PinReachesOnlySync1 := by
  intro s t u data n ht hu
  obtain ⟨m, hm, rfl⟩ := step_next ht
  obtain ⟨m', hm', rfl⟩ := step_next hu
  obtain rfl : m = m' := Except.ok.inj (hm.symm.trans hm')
  refine ⟨cycleResult_regs_sync1 ?_ ?_ m, cycleResult_out_congr ?_ ?_ m⟩ <;> rfl

end Sys2Proof.Machine
end

section
/-! Memory and the register window (20_memory.md). A host access is judged by `memTransaction`, whose tests come in the
order window, width, alignment; a transaction that proposes nothing ends its cycle as a silent one does. -/

namespace Sys2Proof.Machine

/-! ### Accesses in the window -/

/-- The host's move is that of its next item. -/
theorem State.Next.move {s : State} {op : HostOp} {rest : List HostOp} (h : s.Next op rest) :
    s.host.move = op.move s.host := by
  rw [HostAgent.move, h]

theorem step_of_refused {s : State} {e : Refusal} (h : s.host.move = .error e) : step s = .refused e := by
  rw [step, h]

section
variable {we : Bool} {addr size : Nat} {w : Word} (hlo : Config.baseAddr ≤ addr) (hhi : addr < Config.baseAddr + 32)
include hlo hhi

/-- In the window, the width and the alignment decide alone. -/
theorem memTransaction_inWindow :
    memTransaction we addr size w =
      if size ≠ 4 then .error .narrowAccess
      else if addr % 4 ≠ 0 then .error .misalignedAccess
      else .ok (.present (BitVec.ofNat 3 ((addr - Config.baseAddr) / 4) ++ bit1 we) w) :=
  if_neg (not_or.mpr ⟨Nat.not_lt.mpr hlo, Nat.not_le.mpr hhi⟩)

theorem memTransaction_narrow (hsize : size ≠ 4) : memTransaction we addr size w = .error .narrowAccess := by
  rw [memTransaction_inWindow hlo hhi, if_pos hsize]

theorem memTransaction_misaligned (haddr : addr % 4 ≠ 0) :
    memTransaction we addr 4 w = .error .misalignedAccess := by
  rw [memTransaction_inWindow hlo hhi, if_neg (not_not_intro rfl), if_pos haddr]

theorem memTransaction_aligned (haddr : addr % 4 = 0) :
    memTransaction we addr 4 w =
      .ok (.present (BitVec.ofNat 3 ((addr - Config.baseAddr) / 4) ++ bit1 we) w) := by
  rw [memTransaction_inWindow hlo hhi, if_neg (not_not_intro rfl), if_neg (not_not_intro haddr)]

end

/-- Settles O23: the host's move is the transaction of its access, in each of the three cases in the window. -/
theorem windowAccesses : Obligations.WindowAccesses := by
  intro s we addr size w rest hnext hlo hhi
  have hmove : s.host.move = memTransaction we addr size w := hnext.move
  refine ⟨?narrow, ?misaligned, ?aligned⟩
  case narrow =>
    intro hsize
    exact step_of_refused (hmove.trans (memTransaction_narrow hlo hhi hsize))
  case misaligned =>
    rintro rfl haddr
    exact step_of_refused (hmove.trans (memTransaction_misaligned hlo hhi haddr))
  case aligned =>
    rintro rfl haddr
    have hpresents := hmove.trans (memTransaction_aligned hlo hhi haddr)
    exact ⟨hpresents, _, step_of_move hpresents⟩

/-! ### Transactions without a proposal -/

/-- The commands whose completion proposes something: the writes of CTRL, STATUS, TIMING, TXF, RDY and IE, and the read
of RXF (R161 to R173). -/
def proposingCommands : List Nibble := [0x1#4, 0x3#4, 0x5#4, 0x7#4, 0x8#4, 0xB#4, 0xD#4]

section
variable {cmd : Nibble} (hcmd : cmd ∉ proposingCommands)
include hcmd

theorem moveNxt_of_not_proposing (nxt : Regs) (v : Word) : moveNxt nxt (.present cmd v) = nxt := by
  simp only [proposingCommands, List.mem_cons, not_or] at hcmd
  simp [moveNxt, hcmd]

theorem moveReq_of_not_proposing (q : Requests) (v : Word) : moveReq q (.present cmd v) = q := by
  simp only [proposingCommands, List.mem_cons, not_or] at hcmd
  simp [moveReq, hcmd]

/-- Only the read of RXF is ever held (R149). -/
theorem moveAck_of_not_proposing (r : Regs) (v : Word) : moveAck r (.present cmd v) = true := by
  simp only [proposingCommands, List.mem_cons, not_or] at hcmd
  simp [moveAck, hcmd]

/-- A transaction without a proposal leaves the registers that a cycle without one leaves. -/
theorem nextRegs_of_not_proposing (r : Regs) (v : Word) (pin : Bool) :
    nextRegs r (.present cmd v) pin = nextRegs r .quiet pin := by
  have hregs : proposedRegs r (.present cmd v) pin = proposedRegs r .quiet pin :=
    ite_eq_right_iff.mpr fun _ => moveNxt_of_not_proposing hcmd _ v
  have hreq : proposedReq r (.present cmd v) = proposedReq r .quiet :=
    ite_eq_right_iff.mpr fun _ => moveReq_of_not_proposing hcmd _ v
  rw [nextRegs, hregs, hreq, nextRegs]

end

/-- Settles O34: the nine commands propose nothing, so the cycle and its silent twin combine the same proposals. -/
theorem noSideEffects : Obligations.NoSideEffects := by
  intro s cmd v hrun hpresents hmem
  have hcmd : cmd ∉ proposingCommands := by
    clear hpresents
    revert cmd
    decide
  have hregs : (cycleResult s (.present cmd v)).regs = (cycleResult s.hostSilent .quiet).regs := by
    rw [cycleResult_regs_running _ _ hrun, silent_regs s hrun, nextRegs_of_not_proposing hcmd]
  have hack : (cycleResult s (.present cmd v)).out.ack = true := by
    rw [cycleResult_ack, moveAck_of_not_proposing hcmd, Bool.and_true]
    exact hrun
  exact ⟨_, _, step_of_move hpresents, silent_step s, hack, hregs⟩

end Sys2Proof.Machine
end

section
/-! The encodings (30_encoding.md). The decoder has one equation per format of the container, and each of the three
encoders has its decoder as a left inverse; an operation without a command and without a selector is a unit. Then the
bits of a raw word, read from the last sample on, and the host's program after a completed transaction. -/

namespace Sys2Proof.Machine

/-! ### The container's bytes (log 5) -/

theorem wordOfBytes_bytesOfWord (w : Word) :
    wordOfBytes (w.extractLsb' 0 8) (w.extractLsb' 8 8) (w.extractLsb' 16 8) (w.extractLsb' 24 8) = w := by
  unfold wordOfBytes
  rw [BitVec.extractLsb'_append_extractLsb'_eq_extractLsb' (start₂ := 24) (start₁ := 16) rfl,
    BitVec.extractLsb'_append_extractLsb'_eq_extractLsb' (start₂ := 16) (start₁ := 8) rfl,
    BitVec.extractLsb'_append_extractLsb'_eq_extractLsb' (start₂ := 8) (start₁ := 0) rfl]
  exact BitVec.extractLsb'_eq_self

/-- The format of an operation's first byte. -/
theorem firstByte_format (tag sel : Nibble) : (tag ++ sel : Byte).extractLsb' 4 4 = tag :=
  BitVec.extractLsb'_append_eq_left

/-- The four bits of the table in an operation's first byte. -/
theorem firstByte_selector (tag sel : Nibble) : (tag ++ sel : Byte).extractLsb' 0 4 = sel :=
  BitVec.extractLsb'_append_eq_right

/-! ### One equation of the decoder per format -/

theorem decode_busFormat (cmd : Nibble) (w : Word) (rest : List Byte) :
    decode ((0#4 ++ cmd) :: bytesOfWord w ++ rest) = .ok (decodeBus cmd w, rest) := by
  simp only [decode, bytesOfWord, List.cons_append, List.nil_append, firstByte_format, firstByte_selector,
    wordOfBytes_bytesOfWord]
  rfl

theorem decode_fsmFormat (sel : Nibble) (rest : List Byte) :
    decode ((1#4 ++ sel) :: rest) = .ok (decodeSelector sel, rest) := by
  simp only [decode, firstByte_format, firstByte_selector]
  rfl

theorem decode_unitFormat {n : Nibble} {i : Instr} (h : unitRows[n.toNat]? = some i) (rest : List Byte) :
    decode ((2#4 ++ n) :: rest) = .ok (i, rest) := by
  simp only [decode, firstByte_format, firstByte_selector, h]
  rfl

/-! ### The decoders undo the encoders -/

theorem decodeBus_of_encodeBus {i : Instr} {cmd : Nibble} {w : Word} (h : encodeBus i = some (cmd, w)) :
    decodeBus cmd w = i := by
  cases i <;> cases h <;> rfl

theorem decodeSelector_of_encodeSelector {i : Instr} {sel : Nibble} (h : encodeSelector i = some sel) :
    decodeSelector sel = i := by
  cases i
  case engStopped code =>
    cases h
    exact decodeSelector_stopped code
  all_goals cases h <;> rfl

theorem unitRows_of_encodeUnit {i : Instr} {n : Nibble} (h : encodeUnit i = some n) : unitRows[n.toNat]? = some i := by
  cases i <;> cases h <;> rfl

/-- The three formats cover the table. -/
theorem encodeUnit_of_no_selector {i : Instr} (hbus : encodeBus i = none) (hsel : encodeSelector i = none) :
    ∃ n, encodeUnit i = some n := by
  cases i
  case syncStep | rduStep | pinMux => exact ⟨_, rfl⟩
  case engStopped | engIdle | engWait | engHigh | engLow | engPush | engRsvd5 | engRsvd6 | engRsvd7 => exact nomatch hsel
  all_goals exact nomatch hbus

/-- Settles O3, by the format that `encode` chooses. -/
theorem decodeOfEncode : Obligations.DecodeOfEncode := by
  intro i rest
  rcases hbus : encodeBus i with _ | ⟨cmd, w⟩
  · rcases hsel : encodeSelector i with _ | sel
    · obtain ⟨n, hn⟩ := encodeUnit_of_no_selector hbus hsel
      simpa [encode, hbus, hsel, hn] using decode_unitFormat (unitRows_of_encodeUnit hn) rest
    · simpa [encode, hbus, hsel, decodeSelector_of_encodeSelector hsel] using decode_fsmFormat sel rest
  · simpa [encode, hbus, decodeBus_of_encodeBus hbus] using decode_busFormat cmd w rest

/-! ### The two selector spaces -/

/-- The host address of a register offset is the transaction of that offset (R70, R102). -/
theorem memTransaction_baseAddr_add (we : Bool) (off : BitVec 3) (w : Word) :
    memTransaction we (Config.baseAddr + 4 * off.toNat) 4 w = .ok (.present (off ++ BitVec.ofBool we) w) := by
  have hoff : off.toNat < 8 := off.isLt
  have haligned : (Config.baseAddr + 4 * off.toNat) % 4 = 0 := by
    rw [Config.baseAddr]
    omega
  rw [memTransaction_aligned (by omega) (by omega) haligned, Nat.add_sub_cancel_left,
    Nat.mul_div_cancel_left _ (by decide), BitVec.ofNat_toNat, BitVec.setWidth_eq, bit1]

/-- Settles O1: the sixteen commands by evaluation, the addresses by the layout of the window. -/
theorem commandTable : Obligations.CommandTable := by
  intro w
  refine ⟨rfl, rfl, rfl, rfl, rfl, rfl, rfl, rfl, rfl, rfl, rfl, rfl, rfl, rfl, rfl, rfl, fun off we => ?_⟩
  exact memTransaction_baseAddr_add we off w

/-- `st` is five-valued, so no state of the block selects a reserved row (R114). -/
theorem engineRow_wellFormed (r : Regs) : r.engineRow.wellFormed = true := by
  cases hen : r.ctrlEn
  case false =>
    rw [engineRow_stopped hen]
    cases r.st <;> rfl
  case true =>
    rw [engineRow_running hen]
    cases r.st <;> rfl

/-- Settles O2: the selectors by evaluation, the rows of a state by its engine state. -/
theorem selectorTable : Obligations.SelectorTable :=
  ⟨decodeSelector_stopped, rfl, rfl, rfl, rfl, rfl, rfl, rfl, rfl, engineRow_wellFormed⟩

/-- Settles O4, command by command. -/
theorem commandDecodedExactly : Obligations.CommandDecodedExactly := by
  intro cmd w
  exact nibble_cases (fun c => encodeBus (decodeBus c w) = some (c, if c.getLsbD 0 then w else 0#32))
    rfl rfl rfl rfl rfl rfl rfl rfl rfl rfl rfl rfl rfl rfl rfl rfl cmd

/-- Settles O5: the listed bytes, evaluated. -/
theorem sampleBytesDecode : Obligations.SampleBytesDecode := by
  unfold Obligations.SampleBytesDecode
  decide

/-- Settles O19: the meanings of the three rows are the refusals. -/
theorem reservedRowsRefused : Obligations.ReservedRowsRefused := fun _ => ⟨rfl, rfl, rfl⟩

/-! ### The bits of a raw word (R113, R226) -/

/-- A sample enters at bit 0 and moves every earlier one up a place. -/
theorem getLsbD_shiftIn (acc : Word) (b : Bool) (k : Nat) :
    (shiftIn acc b).getLsbD k = (decide (k < 32) && if k = 0 then b else acc.getLsbD (k - 1)) := by
  cases k <;> simp [shiftIn, bit1, BitVec.getLsbD_or]

/-- Bit `k` of the accumulated word is the sample `k` places before the last one. -/
theorem getLsbD_accumulate (bits : List Bool) (k : Nat) (hk : k < 32) :
    (accumulate 0#32 bits).getLsbD k = bits.reverse.getD k false := by
  induction bits using List.reverseRecOn generalizing k with
  | nil => simp [accumulate]
  | append_singleton bits b ih =>
    have hstep : accumulate 0#32 (bits ++ [b]) = shiftIn (accumulate 0#32 bits) b := by simp [accumulate]
    rw [hstep, getLsbD_shiftIn, List.reverse_concat]
    cases k with
    | zero => simp
    | succ k => simp [hk, ih k (by omega)]

theorem getLsbD_accumulate_of_length_le {bits : List Bool} {k : Nat} (hk : k < 32) (h : bits.length ≤ k) :
    (accumulate 0#32 bits).getLsbD k = false := by
  rw [getLsbD_accumulate bits k hk, List.getD_eq_default _ _ (by simpa using h)]

theorem isSentinel_of_msb_clear {w : Word} (h : w.getLsbD 31 = false) : isSentinel w = false := by
  refine decide_eq_false fun hw => ?_
  rw [hw] at h
  exact absurd h (by decide)

theorem accumulate_replicate_true {n : Nat} (hn : 32 ≤ n) :
    accumulate 0#32 (List.replicate n true) = Config.sentinel := by
  refine BitVec.eq_of_getLsbD_eq fun k hk => ?_
  rw [getLsbD_accumulate _ k hk, List.reverse_replicate, List.getD_replicate _ (by omega)]
  exact (BitVec.getLsbD_allOnes.trans (decide_eq_true hk)).symm

/-- Settles O52: the samples are the word's bits, the last one's at bit 0. -/
theorem rawWordBits : Obligations.RawWordBits := by
  refine ⟨fun bits k hk => ?bit, fun bits hlen => ?short, fun n hn => ?long⟩
  case bit =>
    split
    case isTrue h => rw [getLsbD_accumulate bits k hk, List.getD_reverse k h]
    case isFalse h => exact getLsbD_accumulate_of_length_le hk (Nat.not_lt.mp h)
  case short =>
    have hmsb : (accumulate 0#32 bits).getLsbD 31 = false := getLsbD_accumulate_of_length_le (by decide) hlen
    exact ⟨isSentinel_of_msb_clear hmsb, hmsb⟩
  case long => exact ⟨List.replicate n true, List.length_replicate, accumulate_replicate_true hn⟩

/-! ### The host's program goes on (R120, R151) -/

/-- Only a write of CTRL changes the host's copy of its bits 2:0. -/
theorem HostAgent.note_ctrlv (h : HostAgent) (cmd : Nibble) (v rdata : Word) :
    (h.note cmd v rdata).ctrlv = if cmd = 0x1#4 then v.extractLsb' 0 3 else h.ctrlv := by
  unfold HostAgent.note
  split
  case isTrue hread =>
    have hne : cmd ≠ 0x1#4 := by
      rintro rfl
      exact absurd hread (by decide)
    rw [if_neg hne]
  case isFalse => split <;> rfl

/-- A completed transaction gives way to what follows its item. -/
theorem HostAgent.advance_completed {h : HostAgent} {op : HostOp} {rest : List HostOp} (hp : skipDone h.prog = op :: rest)
    (cmd : Nibble) (v rdata : Word) :
    h.advance (.present cmd v) true rdata = { h.note cmd v rdata with prog := op.after ++ rest } := by
  simp [HostAgent.advance, hp]

/-- The host after a step that completed its transaction. -/
theorem step_host_completed {s t : State} {op : HostOp} {rest : List HostOp} {cmd : Nibble} {v : Word}
    (hnext : s.Next op rest) (hpresents : s.Presents cmd v) (hstep : step s = .next t) (hack : t.out.ack = true) :
    ∃ rdata, t.host = { s.host.note cmd v rdata with prog := op.after ++ rest } := by
  obtain rfl : cycleResult s (.present cmd v) = t := Host.Outcome.next.inj ((step_of_move hpresents).symm.trans hstep)
  refine ⟨(cycleResult s (.present cmd v)).out.rdata, ?_⟩
  rw [← HostAgent.advance_completed hnext, ← hack]
  rfl

/-- Settles O55: the table of the pseudo-instructions by evaluation, then the host after a completed transaction. -/
theorem pseudoInstructions : Obligations.PseudoInstructions := by
  refine ⟨fun h b p => ⟨rfl, rfl, rfl, rfl, rfl, rfl, rfl, rfl, rfl, rfl, rfl, rfl, rfl⟩, ?_⟩
  intro s t op rest cmd v hnext hpresents hstep hack
  obtain ⟨rdata, hhost⟩ := step_host_completed hnext hpresents hstep hack
  rw [hhost]
  exact ⟨rfl, HostAgent.note_ctrlv s.host cmd v rdata⟩

end Sys2Proof.Machine
end

section
/-! One cycle (40_cycle_step.md). `MoveRequests` says once which requests each move makes; the combination of R145 to
R148 is then read off them, once per FIFO or flag (`nextRegs_…_eq`), and each kind of move is a case of that. A held
transaction changes no more than a silent host does and is presented again, so a hung host stays hung. -/

namespace Sys2Proof.Machine

/-! ### A step and its move -/

theorem step_eq_cycleWith {s : State} {m : Move} (h : s.host.move = .ok m) : step s = s.cycleWith m := by
  rw [step, h]

/-- Settles O20: the rows of the cycle are the listed ones, and a refused move is the step's refusal. -/
theorem stepRunsDecodedRows : Obligations.StepRunsDecodedRows := by
  refine fun s => ⟨fun cmd w hm => ?present, fun hm => ?quiet, fun r hm => step_of_refused hm⟩
  case present => exact (step_eq_cycleWith hm).trans rfl
  case quiet => exact (step_eq_cycleWith hm).trans rfl

/-- Settles O21: the closed form of the cycle is the next state. -/
theorem stepIsTotal : Obligations.StepIsTotal := fun _ _ hm => ⟨_, step_of_move hm⟩

/-- The next state of a step is the closed form of its cycle. -/
theorem eq_cycleResult {s t : State} {m : Move} (hm : s.host.move = .ok m) (hstep : step s = .next t) :
    t = cycleResult s m :=
  Host.Outcome.next.inj (hstep.symm.trans (step_of_move hm))

/-- The registers after a step outside reset. -/
theorem step_regs_running {s t : State} {m : Move} (hm : s.host.move = .ok m) (hrun : s.Running)
    (hstep : step s = .next t) : t.regs = nextRegs s.regs m (s.env.pin s.cycle) := by
  rw [eq_cycleResult hm hstep, cycleResult_regs_running s m hrun]

/-! ### The outputs (R142) -/

/-- RD_RXF in the fields of the command (R100, R102). -/
theorem beq_rdRxf_eq : ∀ cmd : Nibble, (cmd == 0x8#4) = (!cmd.getLsbD 0 && cmd.extractLsb' 1 3 == 4#3) := by decide

/-- Only a read of an empty `RXF` is held (R142, R149). -/
theorem moveAck_eq_inputs (r : Regs) (m : Move) (rstN pin : Bool) :
    let i := inputsOf m rstN pin
    moveAck r m = (i.req && !(!i.we && i.off == 4#3 && r.rxq.length == 0)) := by
  cases m with
  | quiet => rfl
  | present cmd v =>
    simp only [moveAck, inputsOf, beq_rdRxf_eq, Bool.true_and]
    cases r.rxq <;> rfl

/-- What a completing move returns, in the ports of the cycle. -/
theorem moveRdata_eq_inputs (r : Regs) (m : Move) (rstN pin : Bool) :
    let i := inputsOf m rstN pin
    moveRdata r m = if i.req && !i.we then r.readValue i.off else 0#32 := by
  cases m with
  | quiet => rfl
  | present cmd v =>
    cases hwe : cmd.getLsbD 0 <;>
      · simp only [moveRdata, inputsOf, hwe]
        rfl

theorem cycleResult_rdata (s : State) (m : Move) :
    (cycleResult s m).out.rdata = if s.env.rstN && moveAck s.regs m then moveRdata s.regs m else 0#32 := rfl

/-- Settles O24: the answer of the closed form, in the ports of the cycle. -/
theorem outputEquations : Obligations.OutputEquations := by
  intro s t hstep
  obtain ⟨m, -, rfl⟩ := step_next hstep
  refine ⟨rfl, rfl, ?ack, ?rdata⟩
  case ack =>
    rw [cycleResult_ack, cycleResult_inp, inputsOf_rstN, Bool.and_assoc,
      moveAck_eq_inputs s.regs m s.env.rstN (s.env.pin s.cycle)]
  case rdata =>
    rw [cycleResult_rdata, cycleResult_ack, cycleResult_inp, inputsOf_rstN,
      moveRdata_eq_inputs s.regs m s.env.rstN (s.env.pin s.cycle)]
    cases s.env.rstN <;> cases moveAck s.regs m <;> simp

/-! ### The requests of a cycle (R144) -/

/-- The requests that a move makes from the registers `r`: five transactions make some, the read of RXF only where a word
waits (R149), and a move may make none. -/
inductive MoveRequests (r : Regs) : Move → Requests → Prop
  | wrCtrl (v : Word) : MoveRequests r (.present 0x1#4 v) (Requests.empty.withCtrl v)
  | wrStatus (v : Word) : MoveRequests r (.present 0x3#4 v) (Requests.empty.withStatus v)
  | wrTxf (v : Word) : MoveRequests r (.present 0x7#4 v) (Requests.empty.withTxf v)
  | rdRxf (v : Word) : MoveRequests r (.present 0x8#4 v) { Requests.empty with hPop := !r.rxq.isEmpty }
  | wrRdy (v : Word) : MoveRequests r (.present 0xB#4 v) (Requests.empty.withRdy v)
  | nothing (m : Move) : MoveRequests r m Requests.empty

theorem hostReq_rdRxf (r : Regs) (v : Word) :
    hostReq r (.present 0x8#4 v) = { Requests.empty with hPop := !r.rxq.isEmpty } := by
  cases hrx : r.rxq <;> simp [hostReq, moveAck, moveReq, hrx, Requests.empty]

/-- A move that proposes nothing makes no request. -/
theorem hostReq_of_not_proposing {cmd : Nibble} (hcmd : cmd ∉ proposingCommands) (r : Regs) (v : Word) :
    hostReq r (.present cmd v) = Requests.empty :=
  ite_eq_right_iff.mpr fun _ => moveReq_of_not_proposing hcmd _ v

theorem moveRequests_hostReq (r : Regs) (m : Move) : MoveRequests r m (hostReq r m) := by
  cases m with
  | quiet => exact .nothing _
  | present cmd v =>
    by_cases hcmd : cmd ∈ proposingCommands
    · simp only [proposingCommands, List.mem_cons, List.not_mem_nil, or_false] at hcmd
      rcases hcmd with rfl | rfl | rfl | rfl | rfl | rfl | rfl
      · exact .wrCtrl v
      · exact .wrStatus v
      · exact .nothing _
      · exact .wrTxf v
      · exact hostReq_rdRxf r v ▸ .rdRxf v
      · exact .wrRdy v
      · exact .nothing _
    · exact hostReq_of_not_proposing hcmd r v ▸ .nothing _

namespace MoveRequests

variable {r : Regs} {m : Move} {q : Requests}

/-- Only a write of CTRL flushes (R161). -/
theorem flush_eq_false (hq : MoveRequests r m q) (h : ∀ v, m ≠ .present 0x1#4 v) :
    q.hFlushTx = false ∧ q.hFlushRx = false := by
  cases hq with
  | wrCtrl v => exact absurd rfl (h v)
  | _ => exact ⟨rfl, rfl⟩

/-- Only a write of STATUS clears a sticky flag (R163). -/
theorem clear_eq_false (hq : MoveRequests r m q) (h : ∀ v, m ≠ .present 0x3#4 v) :
    q.hW1cTo = false ∧ q.hW1cTxovf = false := by
  cases hq with
  | wrStatus v => exact absurd rfl (h v)
  | _ => exact ⟨rfl, rfl⟩

/-- Only a write of TXF pushes a job word (R167). -/
theorem hPush_eq_none (hq : MoveRequests r m q) (h : ∀ v, m ≠ .present 0x7#4 v) : q.hPush = none := by
  cases hq with
  | wrTxf v => exact absurd rfl (h v)
  | _ => rfl

/-- Only a read of RXF removes a result word (R168). -/
theorem hPop_eq_false (hq : MoveRequests r m q) (h : ∀ v, m ≠ .present 0x8#4 v) : q.hPop = false := by
  cases hq with
  | rdRxf v => exact absurd rfl (h v)
  | _ => rfl

/-- Only a write of RDY commands the detector (R171). -/
theorem detector_eq_false (hq : MoveRequests r m q) (h : ∀ v, m ≠ .present 0xB#4 v) :
    q.hArm = false ∧ q.hDisarm = false ∧ q.hClr = false := by
  cases hq with
  | wrRdy v => exact absurd rfl (h v)
  | _ => exact ⟨rfl, rfl, rfl⟩

end MoveRequests

/-! ### The combination, from the host's requests (R145 to R148) -/

/-- The job FIFO without the words that the engine takes. -/
def Regs.txqTaken (r : Regs) : List Word := if r.takesJob then r.txq.drop 2 else r.txq

section
variable (r : Regs) (m : Move) (pin : Bool)

theorem nextRegs_txq_eq : (nextRegs r m pin).txq =
    if (hostReq r m).hFlushTx then []
    else
      match (hostReq r m).hPush with
      | some w => if r.txq.length < Config.txDepth then r.txqTaken ++ [w] else r.txqTaken
      | none => r.txqTaken := by
  rw [nextRegs_txq, Requests.txqNext, proposedReq_engPop2, proposedReq_hFlushTx, proposedReq_hPush]
  rfl

theorem nextRegs_rxq_eq : (nextRegs r m pin).rxq =
    if (hostReq r m).hFlushRx then []
    else (if (hostReq r m).hPop then r.rxq.tail else r.rxq) ++ r.delivers.toList := by
  rw [nextRegs_rxq, Requests.rxqNext, proposedReq_engPush, proposedReq_hFlushRx, proposedReq_hPop]
  cases r.delivers <;> simp

theorem nextRegs_toFlag_eq : (nextRegs r m pin).toFlag = (r.timesOut || (r.toFlag && !(hostReq r m).hW1cTo)) := by
  rw [nextRegs_toFlag, Requests.toFlagNext, proposedReq_engTo, proposedReq_hW1cTo]

theorem nextRegs_txovfFlag_eq : (nextRegs r m pin).txovfFlag =
    ((!(hostReq r m).hFlushTx && (hostReq r m).hPush.isSome && decide (Config.txDepth ≤ r.txq.length))
      || (r.txovfFlag && !(hostReq r m).hW1cTxovf)) := by
  rw [nextRegs_txovfFlag, Requests.txovfFlagNext, Requests.txovfSet, proposedReq_hFlushTx, proposedReq_hPush,
    proposedReq_hW1cTxovf]

theorem proposedReq_armCmd : (proposedReq r m).armCmd = (hostReq r m).armCmd := by
  rw [Requests.armCmd, proposedReq_hArm, proposedReq_hDisarm, Requests.armCmd]

theorem nextRegs_rduArm_eq : (nextRegs r m pin).rduArm =
    if (hostReq r m).hDisarm then false else if (hostReq r m).armCmd then true
    else if r.captured then false else r.rduArm := by
  rw [nextRegs_rduArm, Requests.rduArmNext, proposedReq_armCmd, proposedReq_capture, proposedReq_hDisarm]

theorem nextRegs_rduFlag_eq : (nextRegs r m pin).rduFlag =
    if (hostReq r m).armCmd then false else if r.captured then true
    else if (hostReq r m).hClr then false else r.rduFlag := by
  rw [nextRegs_rduFlag, Requests.rduFlagNext, proposedReq_armCmd, proposedReq_capture, proposedReq_hClr]

end

/-! ### The job FIFO (R145) -/

section
variable (r : Regs) (v : Word) (pin : Bool)

theorem nextRegs_txq_wrCtrl :
    (nextRegs r (.present 0x1#4 v) pin).txq = if v.getLsbD 3 then [] else r.txqTaken :=
  nextRegs_txq_eq r _ pin

theorem nextRegs_txq_wrTxf : (nextRegs r (.present 0x7#4 v) pin).txq =
    if r.txq.length < 4 then r.txqTaken ++ [v] else r.txqTaken :=
  nextRegs_txq_eq r _ pin

theorem nextRegs_txovfFlag_wrTxf :
    (nextRegs r (.present 0x7#4 v) pin).txovfFlag = (decide (4 ≤ r.txq.length) || r.txovfFlag) := by
  have h := nextRegs_txovfFlag_eq r (.present 0x7#4 v) pin
  rwa [← Bool.and_true r.txovfFlag]

end

theorem nextRegs_txq_other {r : Regs} {m : Move} (pin : Bool) (hctrl : ∀ v, m ≠ .present 0x1#4 v)
    (htxf : ∀ v, m ≠ .present 0x7#4 v) : (nextRegs r m pin).txq = r.txqTaken := by
  have hq := moveRequests_hostReq r m
  rw [nextRegs_txq_eq, (hq.flush_eq_false hctrl).1, hq.hPush_eq_none htxf]
  rfl

theorem nextRegs_txovfFlag_other {r : Regs} {m : Move} (pin : Bool) (hstatus : ∀ v, m ≠ .present 0x3#4 v)
    (htxf : ∀ v, m ≠ .present 0x7#4 v) : (nextRegs r m pin).txovfFlag = r.txovfFlag := by
  have hq := moveRequests_hostReq r m
  rw [nextRegs_txovfFlag_eq, (hq.clear_eq_false hstatus).2, hq.hPush_eq_none htxf]
  simp

/-- The engine in IDLE loads the two words that it takes (R221). -/
theorem engineNxt_loads_job {r : Regs} (h : r.takesJob = true) :
    ∃ b p rest, r.txq = b :: p :: rest ∧ (engineNxt r r).wcnt = b ∧ (engineNxt r r).pcnt = p := by
  simp only [Regs.takesJob, Bool.and_eq_true, beq_iff_eq, decide_eq_true_eq] at h
  obtain ⟨⟨hen, hst⟩, hlen⟩ := h
  obtain ⟨b, p, rest, htxq⟩ : ∃ b p rest, r.txq = b :: p :: rest := by
    rcases htxq : r.txq with _ | ⟨b, _ | ⟨p, rest⟩⟩
    · simp [htxq] at hlen
    · simp [htxq] at hlen
    · exact ⟨b, p, rest, rfl⟩
  refine ⟨b, p, rest, htxq, ?_⟩
  simp only [engineNxt, hen, hst, htxq]
  split <;> exact ⟨rfl, rfl⟩

/-- Settles O27: the three kinds of move, and the job that the engine loads. -/
theorem jobFifoCombination : Obligations.JobFifoCombination := by
  intro s t m hm hrun hstep t0
  have hregs := step_regs_running hm hrun hstep
  refine ⟨?ctrl, ?txf, ?other, ?taken⟩
  case ctrl =>
    rintro v rfl
    rw [hregs]
    exact nextRegs_txq_wrCtrl _ v _
  case txf =>
    rintro v rfl
    rw [hregs, nextRegs_txq_wrTxf, nextRegs_txovfFlag_wrTxf]
    refine ⟨fun hroom => ⟨if_pos hroom, ?_⟩, fun hfull => ⟨if_neg (Nat.not_lt.mpr hfull), ?_⟩⟩
    · rw [decide_eq_false (Nat.not_le.mpr hroom), Bool.false_or]
    · rw [decide_eq_true hfull, Bool.true_or]
  case other =>
    intro hother
    rw [hregs]
    exact nextRegs_txq_other _ (fun v => (hother v).1) (fun v => (hother v).2)
  case taken =>
    rw [hregs, nextRegs_wcnt, nextRegs_pcnt]
    exact engineNxt_loads_job

/-! ### The result FIFO (R146) -/

theorem nextRegs_rxq_wrCtrl (r : Regs) (v : Word) (pin : Bool) : (nextRegs r (.present 0x1#4 v) pin).rxq =
    if v.getLsbD 4 then [] else r.rxq ++ r.delivers.toList :=
  nextRegs_rxq_eq r _ pin

/-- Where no word waits, the read takes none and the FIFO's tail is empty too. -/
theorem nextRegs_rxq_rdRxf (r : Regs) (v : Word) (pin : Bool) :
    (nextRegs r (.present 0x8#4 v) pin).rxq = r.rxq.tail ++ r.delivers.toList := by
  rw [nextRegs_rxq_eq, hostReq_rdRxf]
  cases r.rxq <;> rfl

theorem nextRegs_rxq_other {r : Regs} {m : Move} (pin : Bool) (hctrl : ∀ v, m ≠ .present 0x1#4 v)
    (hrxf : ∀ v, m ≠ .present 0x8#4 v) : (nextRegs r m pin).rxq = r.rxq ++ r.delivers.toList := by
  have hq := moveRequests_hostReq r m
  rw [nextRegs_rxq_eq, (hq.flush_eq_false hctrl).2, hq.hPop_eq_false hrxf]
  rfl

/-- A cycle outside reset keeps the result FIFO within its capacity (R46). -/
theorem nextRegs_rxq_length {r : Regs} (h : r.rxq.length ≤ Config.rxDepth) (m : Move) (pin : Bool) :
    (nextRegs r m pin).rxq.length ≤ Config.rxDepth := by
  rw [nextRegs_rxq]
  refine Requests.rxqNext_length _ _ h fun hpush => ?_
  rw [proposedReq_engPush] at hpush
  exact Regs.room_of_delivers hpush

/-- A read of an empty result FIFO is held (R149). -/
theorem cycleResult_ack_rdRxf_empty {s : State} (v : Word) (h : s.regs.rxq = []) :
    (cycleResult s (.present 0x8#4 v)).out.ack = false := by
  rw [cycleResult_ack, moveAck, h]
  exact Bool.and_false _

/-- Settles O28: the three kinds of move, then the room that the engine needs and the bound. -/
theorem resultFifoCombination : Obligations.ResultFifoCombination := by
  intro s t m hm hrun hstep pushed
  have hpushed : pushed = s.regs.delivers.toList := by
    unfold pushed
    cases s.regs.delivers <;> rfl
  have hregs := step_regs_running hm hrun hstep
  rw [hpushed, hregs]
  refine ⟨?ctrl, ?rxf, ?other, Regs.room_of_delivers, ?held, fun hlen => nextRegs_rxq_length hlen m _⟩
  case ctrl =>
    rintro v rfl
    exact nextRegs_rxq_wrCtrl _ v _
  case rxf =>
    rintro v rfl
    exact nextRegs_rxq_rdRxf _ v _
  case other =>
    intro hother
    exact nextRegs_rxq_other _ (fun v => (hother v).1) (fun v => (hother v).2)
  case held =>
    rintro v rfl hempty
    rw [eq_cycleResult hm hstep]
    exact cycleResult_ack_rdRxf_empty v hempty

/-! ### The sticky flags (R147) -/

section
variable (r : Regs) (v : Word) (pin : Bool)

theorem nextRegs_toFlag_wrStatus : (nextRegs r (.present 0x3#4 v) pin).toFlag =
    (r.timesOut || (r.toFlag && !v.getLsbD 16)) :=
  nextRegs_toFlag_eq r _ pin

theorem nextRegs_txovfFlag_wrStatus : (nextRegs r (.present 0x3#4 v) pin).txovfFlag =
    (r.txovfFlag && !v.getLsbD 17) :=
  nextRegs_txovfFlag_eq r _ pin

end

theorem nextRegs_toFlag_other {r : Regs} {m : Move} (pin : Bool) (hstatus : ∀ v, m ≠ .present 0x3#4 v) :
    (nextRegs r m pin).toFlag = (r.timesOut || r.toFlag) := by
  rw [nextRegs_toFlag_eq, ((moveRequests_hostReq r m).clear_eq_false hstatus).1, Bool.not_false, Bool.and_true]

/-- Settles O29: a write of STATUS, a write of TXF, and any other move. -/
theorem stickyFlags : Obligations.StickyFlags := by
  intro s t m hm hrun hstep
  rw [step_regs_running hm hrun hstep]
  refine ⟨?status, ?txf, ?other⟩
  case status =>
    rintro v rfl
    exact ⟨nextRegs_toFlag_wrStatus _ v _, nextRegs_txovfFlag_wrStatus _ v _⟩
  case txf =>
    rintro v rfl
    exact ⟨nextRegs_toFlag_other _ nofun, nextRegs_txovfFlag_wrTxf _ v _⟩
  case other =>
    intro hother
    have hstatus : ∀ v, m ≠ .present 0x3#4 v := fun v => (hother v).1
    exact ⟨nextRegs_toFlag_other _ hstatus, nextRegs_txovfFlag_other _ hstatus fun v => (hother v).2⟩

/-! ### The ready detector (R148) -/

theorem nextRegs_detector_other {r : Regs} {m : Move} (pin : Bool) (hrdy : ∀ v, m ≠ .present 0xB#4 v) :
    (nextRegs r m pin).rduArm = (if r.captured then false else r.rduArm) ∧
      (nextRegs r m pin).rduFlag = (if r.captured then true else r.rduFlag) := by
  obtain ⟨harm, hdisarm, hclr⟩ := (moveRequests_hostReq r m).detector_eq_false hrdy
  rw [nextRegs_rduArm_eq, nextRegs_rduFlag_eq, Requests.armCmd, harm, hdisarm, hclr]
  exact ⟨rfl, rfl⟩

/-- Settles O30: with a write of RDY the requests are its bits, without one there is none. -/
theorem readyDetectorCombination : Obligations.ReadyDetectorCombination := by
  intro s t m hm hrun hstep capture
  rw [step_regs_running hm hrun hstep]
  refine ⟨nextRegs_rduPrev _ m _, ?rdy, fun hrdy => nextRegs_detector_other _ hrdy⟩
  rintro v rfl
  exact ⟨nextRegs_rduArm_eq _ _ _, nextRegs_rduFlag_eq _ _ _⟩

/-! ### The read of RXF (R149, R168) -/

/-- A read of RXF, completed or held, proposes at most to take a word. -/
theorem proposedReq_rdRxf (r : Regs) (v : Word) :
    proposedReq r (.present 0x8#4 v) =
      { proposedReq r .quiet with hPop := (proposedReq r (.present 0x8#4 v)).hPop } := by
  unfold proposedReq
  cases moveAck r (.present 0x8#4 v) <;> rfl

/-- A read of RXF leaves the registers of a silent host but for the result FIFO. -/
theorem nextRegs_rdRxf (r : Regs) (v : Word) (pin : Bool) : nextRegs r (.present 0x8#4 v) pin =
    { nextRegs r .quiet pin with rxq := r.rxq.tail ++ r.delivers.toList } := by
  have hregs : proposedRegs r (.present 0x8#4 v) pin = proposedRegs r .quiet pin := ite_eq_right_iff.mpr fun _ => rfl
  rw [← nextRegs_rxq_rdRxf r v pin, nextRegs, hregs, proposedReq_rdRxf]
  rfl

theorem nextRegs_rxq_quiet (r : Regs) (pin : Bool) : (nextRegs r .quiet pin).rxq = r.rxq ++ r.delivers.toList :=
  nextRegs_rxq_other pin nofun nofun

/-- A completing read takes the oldest word alone from what a silent host would have left. -/
theorem nextRegs_rdRxf_of_ne_nil {r : Regs} (h : r.rxq ≠ []) (v : Word) (pin : Bool) :
    nextRegs r (.present 0x8#4 v) pin =
      { nextRegs r .quiet pin with rxq := (nextRegs r .quiet pin).rxq.tail } := by
  rw [nextRegs_rdRxf, nextRegs_rxq_quiet, List.tail_append_of_ne_nil h]

/-- A held read changes nothing. -/
theorem nextRegs_rdRxf_of_nil {r : Regs} (h : r.rxq = []) (v : Word) (pin : Bool) :
    nextRegs r (.present 0x8#4 v) pin = nextRegs r .quiet pin := by
  have hrxq : (nextRegs r .quiet pin).rxq = r.rxq.tail ++ r.delivers.toList := by rw [nextRegs_rxq_quiet, h]; rfl
  rw [nextRegs_rdRxf, ← hrxq]

/-- Settles O35: the read completes where a word waits, and is held where none does. -/
theorem resultReadFrame : Obligations.ResultReadFrame := by
  intro s v hrun hpresents
  refine ⟨_, _, step_of_move hpresents, silent_step s, ?completes, ?held⟩
  case completes =>
    intro w rest hrxq
    have hack : (s.env.rstN && moveAck s.regs (.present 0x8#4 v)) = true := by
      rw [moveAck, hrxq, Bool.and_eq_true]
      exact ⟨hrun, rfl⟩
    refine ⟨hack, ?rdata, ?regs⟩
    case rdata =>
      rw [cycleResult_rdata, if_pos hack]
      change s.regs.rxq.headD 0#32 = w
      rw [hrxq, List.headD_cons]
    case regs =>
      have hne : s.regs.rxq ≠ [] := hrxq ▸ List.cons_ne_nil w rest
      rw [cycleResult_regs_running _ _ hrun, silent_regs s hrun, nextRegs_rdRxf_of_ne_nil hne]
  case held =>
    intro hempty
    refine ⟨cycleResult_ack_rdRxf_empty v hempty, ?_⟩
    rw [cycleResult_regs_running _ _ hrun, silent_regs s hrun, nextRegs_rdRxf_of_nil hempty]

/-! ### Held transactions (R151) -/

/-- A transaction that the cycle did not complete is the host's next move. -/
theorem cycleResult_presents {s : State} {cmd : Nibble} {w : Word} (hpresents : s.Presents cmd w)
    (hack : (cycleResult s (.present cmd w)).out.ack = false) : (cycleResult s (.present cmd w)).Presents cmd w := by
  have hhost : (cycleResult s (.present cmd w)).host =
      s.host.advance (.present cmd w) false (cycleResult s (.present cmd w)).out.rdata := by
    rw [← hack]
    rfl
  rw [State.Presents, hhost, HostAgent.move_held]
  exact hpresents

/-- Settles O36: the next state is the closed form of the cycle that held the transaction. -/
theorem heldTransactionRepeats : Obligations.HeldTransactionRepeats := by
  intro s t cmd w hpresents hstep hack
  obtain rfl := eq_cycleResult hpresents hstep
  exact cycleResult_presents hpresents hack

/-! ### The hang (R153) -/

/-- A property that every step from it answers and keeps holds after any number of steps. -/
theorem run_of_step_keeps {P : State → Prop} (h : ∀ s, P s → ∃ t, step s = .next t ∧ P t) (k : Nat) :
    ∀ s, P s → ∃ t, core.run k s = .next t ∧ P t := by
  induction k with
  | zero => exact fun s hs => ⟨s, rfl, hs⟩
  | succ k ih =>
    intro s hs
    obtain ⟨t, hstep, ht⟩ := h s hs
    rw [run_succ hstep]
    exact ih t ht

/-- A stopped engine delivers nothing (R220). -/
theorem Regs.delivers_of_stopped {r : Regs} (h : r.ctrlEn = false) : r.delivers = none := by
  rw [Regs.delivers, h]
  rfl

/-- The registers of a hung host stay stopped and without a result: in reset by R54, outside it since the held read
writes nothing and the stopped engine delivers nothing. -/
theorem cycleResult_regs_hung {s : State} (v : Word) (hen : s.regs.ctrlEn = false) (hrxq : s.regs.rxq = []) :
    (cycleResult s (.present 0x8#4 v)).regs.ctrlEn = false ∧ (cycleResult s (.present 0x8#4 v)).regs.rxq = [] := by
  cases hrst : s.env.rstN with
  | false =>
    rw [cycleResult_regs_reset _ _ hrst]
    exact ⟨rfl, rfl⟩
  | true =>
    rw [cycleResult_regs_running _ _ hrst, nextRegs_rdRxf_of_nil hrxq, nextRegs_rxq_quiet, hrxq,
      Regs.delivers_of_stopped hen]
    exact ⟨(nextRegs_ctrlEn _ _ _).trans hen, rfl⟩

/-- One step of a hung machine: the read is held, so it is presented again (R151). -/
theorem State.Hung.step {s : State} (h : s.Hung) : ∃ t, Sys2Proof.Machine.step s = .next t ∧ t.Hung := by
  obtain ⟨⟨v, hpresents⟩, hen, hrxq⟩ := h
  exact ⟨_, step_of_move hpresents, ⟨v, cycleResult_presents hpresents (cycleResult_ack_rdRxf_empty v hrxq)⟩,
    cycleResult_regs_hung v hen hrxq⟩

/-- Settles O44, by induction on the number of steps. -/
theorem hungStaysHung : Obligations.HungStaysHung := fun s hs k =>
  run_of_step_keeps (fun _ h => h.step) k s hs

end Sys2Proof.Machine
end

section
/-! The sixteen host operations (41_host_ops.md). A read answers the word of its register and a write its proposals, each
by what the shared operation does outside reset. At the clock edge a completing write is compared with a silent cycle from
the same registers: its frame lemma names the elements that differ. -/

namespace Sys2Proof.Machine

/-! ### What each operation proposes -/

section
variable {s : State} (h : s.inp.rstN = true)
include h

/-- A read outside reset completes, and changes nothing but the answer (R142). -/
theorem next_readOp_running (v : Word) : (.next (s.readOp v) : Host.Outcome State Fault Refusal) =
    .next { s with out := { s.out with ack := true, rdata := v } } := by
  rw [State.readOp_eq, h, if_pos rfl]

/-- A write outside reset completes, and makes its proposals and requests (R144). -/
theorem next_writeOp_running (r : Regs) (q : Requests) :
    (.next (s.writeOp r q) : Host.Outcome State Fault Refusal) =
      .next { s with nxt := r, req := q, out := { s.out with ack := true, rdata := 0#32 } } := by
  rw [State.writeOp_running s r q h]

/-- RD_RXF with a word waiting (R168). -/
theorem execRdRxf_of_cons {w : Word} {rest : List Word} (hrxq : s.regs.rxq = w :: rest) :
    execRdRxf s = .next ((s.readOp w).setReq { s.req with hPop := true }) := by
  simp only [execRdRxf, hrxq, h, if_true]

end

/-- RD_RXF with no word waiting is held, in reset or not (R149). -/
theorem execRdRxf_of_nil {s : State} (hrxq : s.regs.rxq = []) : execRdRxf s = .next s.holdOp := by
  simp only [execRdRxf, hrxq]

/-- Settles O6: each read returns the word that the table of its register lays out. -/
theorem readsReturnRegisters : Obligations.ReadsReturnRegisters := by
  intro s h answered
  have hread := next_readOp_running h
  exact ⟨hread s.regs.ctrlWord, hread s.regs.statusWord, hread s.regs.timingWord, hread 0#32, hread s.regs.rdyWord,
    hread s.regs.ieWord, hread 0#32⟩

/-- Settles O7: the read completes where a word waits, and is held where none does. -/
theorem resultReadPopsOrHolds : Obligations.ResultReadPopsOrHolds := by
  refine fun s h => ⟨?pops, fun hrxq => execRdRxf_of_nil hrxq⟩
  case pops =>
    intro w rest hrxq
    refine (execRdRxf_of_cons h hrxq).trans ?_
    rw [State.readOp_eq, h, if_pos rfl]
    rfl

/-- Settles O8: the three writes store the fields of `withCtrl`, `withTiming` and `withIe`. -/
theorem registerWritesPropose : Obligations.RegisterWritesPropose := by
  intro s v h
  have hwrite := next_writeOp_running h
  exact ⟨hwrite (s.nxt.withCtrl v) (s.req.withCtrl v), hwrite (s.nxt.withTiming v) s.req, hwrite (s.nxt.withIe v) s.req⟩

/-- Settles O9: the three writes make the requests of `withStatus`, `withTxf` and `withRdy`. -/
theorem commandWritesRequest : Obligations.CommandWritesRequest := by
  intro s v h
  have hwrite := next_writeOp_running h s.nxt
  exact ⟨hwrite (s.req.withStatus v), hwrite (s.req.withTxf v), hwrite (s.req.withRdy v)⟩

/-- Settles O10: both writes propose the registers and the requests as they are. -/
theorem ignoredWritesProposeNothing : Obligations.IgnoredWritesProposeNothing := by
  intro s v h
  have hwrite := next_writeOp_running h s.nxt s.req
  exact ⟨hwrite, hwrite⟩

/-! ### What a completed write leaves unchanged

Each frame lemma (`nextRegs_wr…`) first holds by definition with the written elements left as `nextRegs` gives them: the
combination computes an element from the requests that R145 to R148 name for it and from no other, so a write reaches only
those. The written elements are then read off the combination. -/

/-- Only the read of RXF is ever held (R149). -/
theorem moveAck_of_ne_rdRxf {cmd : Nibble} (hcmd : cmd ≠ 0x8#4) (r : Regs) (v : Word) :
    moveAck r (.present cmd v) = true := by
  rw [moveAck, beq_false_of_ne hcmd, Bool.false_and, Bool.not_false]

/-- A transaction other than the read of RXF completes outside reset; its cycle and the silent one start from the same
registers and see the same data line. -/
theorem completes_beside_silent {s : State} {cmd : Nibble} {v : Word} (hrun : s.Running) (hpresents : s.Presents cmd v)
    (hcmd : cmd ≠ 0x8#4) :
    ∃ t u, step s = .next t ∧ step s.hostSilent = .next u ∧ t.out.ack = true ∧
      t.regs = nextRegs s.regs (.present cmd v) (s.env.pin s.cycle) ∧
      u.regs = nextRegs s.regs .quiet (s.env.pin s.cycle) := by
  refine ⟨_, _, step_of_move hpresents, silent_step s, ?_, cycleResult_regs_running _ _ hrun, silent_regs s hrun⟩
  rw [cycleResult_ack, moveAck_of_ne_rdRxf hcmd, Bool.and_true]
  exact hrun

section
variable (r : Regs) (v : Word) (pin : Bool)

theorem nextRegs_txq_quiet : (nextRegs r .quiet pin).txq = r.txqTaken := nextRegs_txq_other pin nofun nofun

theorem nextRegs_toFlag_quiet : (nextRegs r .quiet pin).toFlag = (r.timesOut || r.toFlag) :=
  nextRegs_toFlag_other pin nofun

theorem nextRegs_txovfFlag_quiet : (nextRegs r .quiet pin).txovfFlag = r.txovfFlag :=
  nextRegs_txovfFlag_other pin nofun nofun

/-- WR_CTRL (R161): the overflow flag holds too, since no job word is pushed beside the flush. -/
theorem nextRegs_wrCtrl : nextRegs r (.present 0x1#4 v) pin =
    { (nextRegs r .quiet pin).withCtrl v with
      txq := if v.getLsbD 3 then [] else (nextRegs r .quiet pin).txq
      rxq := if v.getLsbD 4 then [] else (nextRegs r .quiet pin).rxq } := by
  have hframe : nextRegs r (.present 0x1#4 v) pin =
      { (nextRegs r .quiet pin).withCtrl v with
        txq := (nextRegs r (.present 0x1#4 v) pin).txq
        rxq := (nextRegs r (.present 0x1#4 v) pin).rxq
        txovfFlag := (nextRegs r (.present 0x1#4 v) pin).txovfFlag } := rfl
  have hovf : (nextRegs r (.present 0x1#4 v) pin).txovfFlag = r.txovfFlag := nextRegs_txovfFlag_other pin nofun nofun
  rw [hframe, hovf, ← nextRegs_txovfFlag_quiet r pin, nextRegs_txq_wrCtrl, nextRegs_rxq_wrCtrl, nextRegs_txq_quiet,
    nextRegs_rxq_quiet]
  rfl

/-- WR_TIMING (R165): it makes no request. -/
theorem nextRegs_wrTiming : nextRegs r (.present 0x5#4 v) pin = (nextRegs r .quiet pin).withTiming v := rfl

/-- WR_IE (R173): it makes no request. -/
theorem nextRegs_wrIe : nextRegs r (.present 0xD#4 v) pin = (nextRegs r .quiet pin).withIe v := rfl

/-- WR_STATUS (R163): a timeout of the same cycle wins over the clear (R147). -/
theorem nextRegs_wrStatus : nextRegs r (.present 0x3#4 v) pin =
    { nextRegs r .quiet pin with
      toFlag := if v.getLsbD 16 then r.timesOut else (nextRegs r .quiet pin).toFlag
      txovfFlag := if v.getLsbD 17 then false else (nextRegs r .quiet pin).txovfFlag } := by
  have hframe : nextRegs r (.present 0x3#4 v) pin =
      { nextRegs r .quiet pin with
        toFlag := (nextRegs r (.present 0x3#4 v) pin).toFlag
        txovfFlag := (nextRegs r (.present 0x3#4 v) pin).txovfFlag } := rfl
  rw [hframe, nextRegs_toFlag_wrStatus, nextRegs_txovfFlag_wrStatus, nextRegs_toFlag_quiet, nextRegs_txovfFlag_quiet]
  cases v.getLsbD 16 <;> cases v.getLsbD 17 <;> simp

/-- WR_TXF (R167): the word is pushed where the FIFO had room before the cycle, else it is dropped into the flag (R145). -/
theorem nextRegs_wrTxf : nextRegs r (.present 0x7#4 v) pin =
    { nextRegs r .quiet pin with
      txq := if r.txq.length < 4 then (nextRegs r .quiet pin).txq ++ [v] else (nextRegs r .quiet pin).txq
      txovfFlag := if r.txq.length < 4 then (nextRegs r .quiet pin).txovfFlag else true } := by
  have hframe : nextRegs r (.present 0x7#4 v) pin =
      { nextRegs r .quiet pin with
        txq := (nextRegs r (.present 0x7#4 v) pin).txq
        txovfFlag := (nextRegs r (.present 0x7#4 v) pin).txovfFlag } := rfl
  rw [hframe, nextRegs_txq_wrTxf, nextRegs_txovfFlag_wrTxf, nextRegs_txq_quiet, nextRegs_txovfFlag_quiet]
  rcases Nat.lt_or_ge r.txq.length 4 with hroom | hfull
  · simp [hroom]
  · simp [hfull, Nat.not_lt.mpr hfull]

/-- WR_RDY (R171): its requests reach the detector's two bits alone (R148). -/
theorem nextRegs_wrRdy : nextRegs r (.present 0xB#4 v) pin =
    { nextRegs r .quiet pin with
      rduArm := (nextRegs r (.present 0xB#4 v) pin).rduArm
      rduFlag := (nextRegs r (.present 0xB#4 v) pin).rduFlag } := rfl

end

/-- Settles O32: each of the three writes completes, and its frame lemma compares it with the silent cycle. -/
theorem registerWriteFrame : Obligations.RegisterWriteFrame := by
  refine fun s v hrun => ⟨fun hpresents => ?ctrl, fun hpresents => ?timing, fun hpresents => ?ie⟩ <;>
    obtain ⟨t, u, ht, hu, hack, htregs, huregs⟩ := completes_beside_silent hrun hpresents (by decide) <;>
    refine ⟨t, u, ht, hu, hack, ?_⟩ <;>
    rw [htregs, huregs]
  case ctrl => exact nextRegs_wrCtrl s.regs v _
  case timing => exact nextRegs_wrTiming s.regs v _
  case ie => exact nextRegs_wrIe s.regs v _

/-- Settles O33: each of the three writes completes, and its frame lemma compares it with the silent cycle. -/
theorem commandWriteFrame : Obligations.CommandWriteFrame := by
  refine fun s v hrun => ⟨fun hpresents => ?status, fun hpresents => ?txf, fun hpresents => ?rdy⟩ <;>
    obtain ⟨t, u, ht, hu, hack, htregs, huregs⟩ := completes_beside_silent hrun hpresents (by decide) <;>
    refine ⟨t, u, ht, hu, hack, ?_⟩ <;>
    rw [htregs, huregs]
  case status => exact nextRegs_wrStatus s.regs v _
  case txf => exact nextRegs_wrTxf s.regs v _
  case rdy => exact nextRegs_wrRdy s.regs v _

end Sys2Proof.Machine
end

section
/-! The engine's runs, shared by the ready poll (42_ready_detect.md) and the pulse train (43_clock_engine.md). In a
cycle of a regular machine the engine's own elements go by `engineNxt` alone. `State.Passes` says what any number of
cycles without a delivery or a timeout leave as it was, and composes; each phase of a job (load, poll, half-period,
pulse, train) is a lemma that passes its cycles and tells the engine's elements behind them. -/

namespace Sys2Proof.Machine

/-! ### The engine's own elements -/

/-- The elements that the engine alone writes (R47 to R52). -/
structure Engine where
  st : EngState
  wcnt : Word
  pcnt : Word
  acc : Word
  tcnt : Byte
  sckEng : Bool

/-- The engine's own elements among the registers. -/
def Regs.engine (r : Regs) : Engine := ⟨r.st, r.wcnt, r.pcnt, r.acc, r.tcnt, r.sckEng⟩

/-- No transaction reaches them (R144, R232). -/
theorem nextRegs_engine (r : Regs) (m : Move) (pin : Bool) : (nextRegs r m pin).engine = (engineNxt r r).engine := by
  simp only [Regs.engine, nextRegs_st, nextRegs_wcnt, nextRegs_pcnt, nextRegs_acc, nextRegs_tcnt, nextRegs_sckEng]

section
variable {r : Regs} (hen : r.ctrlEn = true)
include hen

theorem engine_loads_waiting (hst : r.st = .idle) (hwait : r.ctrlWaitrdy = true) {b p : Word} {rest : List Word}
    (htxq : r.txq = b :: p :: rest) :
    (engineNxt r r).engine = { r.engine with wcnt := b, pcnt := p, acc := 0#32, st := .wait } := by
  simp [engineNxt, Regs.engine, hen, hst, hwait, htxq]

theorem engine_wait_low (hst : r.st = .wait) (hline : r.sync2 = false) :
    (engineNxt r r).engine = { r.engine with st := .high, sckEng := true, tcnt := r.tHi } := by
  simp [engineNxt, Regs.engine, hen, hst, hline]

theorem engine_wait_timeout (hst : r.st = .wait) (hline : r.sync2 = true) (hcnt : r.wcnt = 0#32) :
    (engineNxt r r).engine = { r.engine with acc := Config.sentinel, st := .push } := by
  simp [engineNxt, Regs.engine, hen, hst, hline, hcnt]

theorem engine_wait_counts (hst : r.st = .wait) (hline : r.sync2 = true) (hcnt : r.wcnt ≠ 0#32) :
    (engineNxt r r).engine = { r.engine with wcnt := r.wcnt - 1#32 } := by
  simp [engineNxt, Regs.engine, hen, hst, hline, hcnt]

/-- HIGH and LOW count their half-period down alike (R223, R224). -/
theorem engine_half_counts (hst : r.st = .high ∨ r.st = .low) (hcnt : r.tcnt ≠ 0#8) :
    (engineNxt r r).engine = { r.engine with tcnt := r.tcnt - 1#8 } := by
  rcases hst with hst | hst <;> simp [engineNxt, Regs.engine, hen, hst, hcnt]

theorem engine_high_ends (hst : r.st = .high) (hcnt : r.tcnt = 0#8) :
    (engineNxt r r).engine = { r.engine with sckEng := false, tcnt := r.tLo, st := .low } := by
  simp [engineNxt, Regs.engine, hen, hst, hcnt]

theorem engine_low_ends_train (hst : r.st = .low) (hcnt : r.tcnt = 0#8) (hp : r.pcnt = 0#32) :
    (engineNxt r r).engine = { r.engine with acc := shiftIn r.acc r.sync2, st := .push } := by
  simp [engineNxt, Regs.engine, hen, hst, hcnt, hp]

theorem engine_low_next_pulse (hst : r.st = .low) (hcnt : r.tcnt = 0#8) (hp : r.pcnt ≠ 0#32) :
    (engineNxt r r).engine = { r.engine with
      acc := shiftIn r.acc r.sync2, pcnt := r.pcnt - 1#32, st := .high, sckEng := true, tcnt := r.tHi } := by
  simp [engineNxt, Regs.engine, hen, hst, hcnt, hp]

theorem engine_push_delivers (hst : r.st = .push) (hroom : r.rxq.length < 4) :
    (engineNxt r r).engine = { r.engine with st := .idle } := by
  simp [engineNxt, Regs.engine, hen, hst, Config.rxDepth, hroom]

theorem engine_push_holds (hst : r.st = .push) (hfull : 4 ≤ r.rxq.length) : (engineNxt r r).engine = r.engine := by
  simp [engineNxt, Regs.engine, hen, hst, Config.rxDepth, Nat.not_lt.mpr hfull]

end

/-- The engine takes no job, delivers no word and records no timeout in this cycle (R144 item 3). -/
structure Regs.RequestsNothing (r : Regs) : Prop where
  takesJob : r.takesJob = false
  delivers : r.delivers = none
  timesOut : r.timesOut = false

theorem Regs.requestsNothing_of_pulse {r : Regs} (hst : r.st = .high ∨ r.st = .low) : r.RequestsNothing := by
  rcases hst with hst | hst <;> constructor <;> simp [Regs.takesJob, Regs.delivers, Regs.timesOut, hst]

theorem Regs.requestsNothing_of_wait {r : Regs} (hst : r.st = .wait) (hto : r.timesOut = false) : r.RequestsNothing :=
  ⟨by simp [Regs.takesJob, hst], by simp [Regs.delivers, hst], hto⟩

/-! ### The synchronised data line in the cycles to come -/

/-- `stream` is what the synchronised data line shows from this cycle on: the two stages of the synchroniser, then the
scheduled levels (R200). -/
def State.Shows (s : State) (stream : List Bool) : Prop :=
  ∃ levels, s.Line levels ∧ stream <+: s.regs.sync2 :: s.regs.sync1 :: levels

theorem State.Line.shows {s : State} {levels : List Bool} (h : s.Line levels) :
    s.Shows (s.regs.sync2 :: s.regs.sync1 :: levels) :=
  ⟨levels, h, List.prefix_refl _⟩

theorem State.Shows.sync2_of_getElem? {s : State} {stream : List Bool} (h : s.Shows stream) {b : Bool}
    (hb : stream[0]? = some b) : s.regs.sync2 = b := by
  obtain ⟨levels, -, more, hmore⟩ := h
  cases stream with
  | nil => simp at hb
  | cons a l =>
    simp only [List.cons_append, List.cons.injEq] at hmore
    rw [← hmore.1]
    simpa using hb

/-! ### One cycle of a regular machine -/

/-- The move that the host makes in a cycle of a regular machine (`State.Regular`). -/
structure State.RegularMove (s : State) (m : Move) : Prop where
  running : s.Running
  move : s.host.move = .ok m
  spares : ∀ v, m ≠ .present 0x1#4 v ∧ m ≠ .present 0x5#4 v

theorem State.Regular.exists_move {s : State} {k : Nat} (h : s.Regular (k + 1)) : ∃ m, s.RegularMove m := by
  obtain ⟨hrun, ⟨m, hm, hspares⟩, -⟩ := h
  exact ⟨m, hrun, hm, hspares⟩

namespace State.RegularMove

variable {s : State} {m : Move} (h : s.RegularMove m)
include h

theorem step_eq : step s = .next (cycleResult s m) := step_of_move h.move

theorem regs_eq : (cycleResult s m).regs = nextRegs s.regs m (s.env.pin s.cycle) :=
  cycleResult_regs_running s m h.running

theorem engine_eq : (cycleResult s m).regs.engine = (engineNxt s.regs s.regs).engine := by
  rw [h.regs_eq, nextRegs_engine]

/-- Neither the engine nor a move that spares CTRL and TIMING writes their fields. -/
theorem setup_eq : (cycleResult s m).regs.ctrlEn = s.regs.ctrlEn ∧ (cycleResult s m).regs.tHi = s.regs.tHi ∧
    (cycleResult s m).regs.tLo = s.regs.tLo := by
  have hreg : s.Regular (0 + 1) := ⟨h.running, ⟨m, h.move, h.spares⟩, fun _ _ => trivial⟩
  obtain ⟨_, t, hstep, -, -, hsetup⟩ := hreg.step
  obtain rfl := eq_cycleResult h.move hstep
  exact hsetup

theorem regular {k : Nat} (hreg : s.Regular (k + 1)) : (cycleResult s m).Regular k := by
  obtain ⟨-, -, hnext⟩ := hreg
  exact hnext _ h.step_eq

theorem shows_drop {stream : List Bool} (hs : s.Shows stream) : (cycleResult s m).Shows (stream.drop 1) := by
  obtain ⟨levels, hline, hpre⟩ := hs
  refine ⟨levels.tail, hline.tail rfl, ?_⟩
  rw [h.regs_eq, nextRegs_sync1, nextRegs_sync2]
  cases levels with
  | nil => exact (hpre.drop 1).trans (List.prefix_append [s.regs.sync1] [s.env.pin s.cycle])
  | cons a l =>
    rw [hline.pin]
    exact hpre.drop 1

/-- The host flushes nothing, so the job words that the engine leaves stay in front (R145). -/
theorem txqTaken_prefix : s.regs.txqTaken <+: (cycleResult s m).regs.txq := by
  have hflush := ((moveRequests_hostReq s.regs m).flush_eq_false fun v => (h.spares v).1).1
  rw [h.regs_eq, nextRegs_txq_eq, hflush, if_neg Bool.false_ne_true]
  split
  · split
    · exact List.prefix_append _ _
    · exact List.prefix_refl _
  · exact List.prefix_refl _

/-- A word that the engine delivers is the last of the result FIFO, whatever the host removes (R146). -/
theorem getLast?_rxq {w : Word} (hw : s.regs.delivers = some w) : (cycleResult s m).regs.rxq.getLast? = some w := by
  have hflush := ((moveRequests_hostReq s.regs m).flush_eq_false fun v => (h.spares v).1).2
  rw [h.regs_eq, nextRegs_rxq_eq, hflush, if_neg Bool.false_ne_true, hw]
  exact List.getLast?_concat

/-- A timeout sets the flag, whatever the host clears (R147). -/
theorem toFlag_of_timesOut (ht : s.regs.timesOut = true) : (cycleResult s m).regs.toFlag = true := by
  rw [h.regs_eq, nextRegs_toFlag_eq, ht, Bool.true_or]

/-- A quiet host makes no move and stays quiet. -/
theorem quiet (hq : s.Quiet) : m = .quiet ∧ (cycleResult s m).Quiet := by
  obtain ⟨t, hstep, ht, -⟩ := quiet_step hq
  obtain rfl := eq_cycleResult h.move hstep
  exact ⟨Except.ok.inj (h.move.symm.trans (HostAgent.move_done hq.1)), ht⟩

/-- Under a quiet host the FIFOs and the timeout flag change by the engine's requests alone. -/
theorem quiet_regs (hq : s.Quiet) : (cycleResult s m).regs.txq = s.regs.txqTaken ∧
    (cycleResult s m).regs.rxq = s.regs.rxq ++ s.regs.delivers.toList ∧
    (cycleResult s m).regs.toFlag = (s.regs.timesOut || s.regs.toFlag) := by
  obtain rfl := (h.quiet hq).1
  rw [h.regs_eq]
  exact ⟨nextRegs_txq_quiet _ _, nextRegs_rxq_quiet _ _, nextRegs_toFlag_quiet _ _⟩

end State.RegularMove

/-! ### Cycles in which the engine works on its job -/

/-- A run of one cycle more than `k` begins with a step. -/
theorem exists_step_of_run_succ {k : Nat} {s t : State} (h : core.run (k + 1) s = .next t) :
    ∃ u, step s = .next u ∧ core.run k u = .next t := by
  simp only [Host.Core.run] at h
  split at h
  case h_1 u hstep => exact ⟨u, hstep, h⟩
  case h_2 => exact nomatch h
  case h_3 => exact nomatch h

/-- A run goes on from where its first part ends. -/
theorem run_add {k : Nat} {s t : State} (h : core.run k s = .next t) (n : Nat) : core.run (k + n) s = core.run n t := by
  induction k generalizing s with
  | zero =>
    obtain rfl : s = t := Host.Outcome.next.inj h
    rw [Nat.zero_add]
  | succ k ih =>
    obtain ⟨u, hstep, hrun⟩ := exists_step_of_run_succ h
    rw [Nat.add_right_comm, run_succ hstep, ih hrun]

/-- `k` cycles of a regular machine lead from `s` to `t`; in none of them does the engine deliver a word or time out,
and `queue` are the job words that it leaves. -/
structure State.Passes (k : Nat) (queue : List Word) (s t : State) : Prop where
  run : core.run k s = .next t
  regular : ∀ n, s.Regular (k + n) → t.Regular n
  shows : ∀ stream, s.Shows stream → t.Shows (stream.drop k)
  setup : t.regs.ctrlEn = s.regs.ctrlEn ∧ t.regs.tHi = s.regs.tHi ∧ t.regs.tLo = s.regs.tLo
  kept : queue <+: t.regs.txq
  quiet : s.Quiet → t.Quiet ∧ t.regs.txq = queue ∧ t.regs.rxq = s.regs.rxq ∧ t.regs.toFlag = s.regs.toFlag

namespace State.Passes

theorem refl (s : State) : Passes 0 s.regs.txq s s where
  run := rfl
  regular _ h := by rwa [Nat.zero_add] at h
  shows _ h := h
  setup := ⟨rfl, rfl, rfl⟩
  kept := List.prefix_refl _
  quiet h := ⟨h, rfl, rfl, rfl⟩

theorem trans {a b : Nat} {queue : List Word} {s t u : State} (h : Passes a queue s t) (h' : Passes b t.regs.txq t u) :
    Passes (a + b) queue s u where
  run := (run_add h.run b).trans h'.run
  regular n hreg := h'.regular n (h.regular (b + n) (by rwa [← Nat.add_assoc]))
  shows stream hs := by
    rw [← List.drop_drop]
    exact h'.shows _ (h.shows _ hs)
  setup := by
    obtain ⟨hen, hhi, hlo⟩ := h.setup
    rw [← hen, ← hhi, ← hlo]
    exact h'.setup
  kept := h.kept.trans h'.kept
  quiet hq := by
    obtain ⟨hqt, htx, hrx, hto⟩ := h.quiet hq
    rw [← htx, ← hrx, ← hto]
    exact h'.quiet hqt

/-- One cycle in which the engine takes a job or requests nothing. -/
theorem of_move {s : State} {m : Move} (h : s.RegularMove m) (hdel : s.regs.delivers = none)
    (hto : s.regs.timesOut = false) : Passes 1 s.regs.txqTaken s (cycleResult s m) where
  run := run_succ h.step_eq 0
  regular n hreg := h.regular (by rwa [Nat.add_comm])
  shows _ hs := h.shows_drop hs
  setup := h.setup_eq
  kept := h.txqTaken_prefix
  quiet hq := by
    obtain ⟨htx, hrx, hflag⟩ := h.quiet_regs hq
    rw [hdel] at hrx
    rw [hto, Bool.false_or] at hflag
    exact ⟨(h.quiet hq).2, htx, hrx.trans (List.append_nil _), hflag⟩

/-- The engine is not stopped on the way. -/
theorem enabled {k : Nat} {queue : List Word} {s t : State} (h : Passes k queue s t) (hen : s.regs.ctrlEn = true) :
    t.regs.ctrlEn = true := by
  obtain ⟨hkeep, -, -⟩ := h.setup
  exact hkeep.trans hen

/-- The synchronised data line behind `k` cycles is the stream's element `k`. -/
theorem sync2_eq {k : Nat} {queue : List Word} {stream : List Bool} {s t : State} (h : Passes k queue s t)
    (hs : s.Shows stream) (hk : k < stream.length) : t.regs.sync2 = stream.getD k false := by
  refine (h.shows _ hs).sync2_of_getElem? ?_
  rw [List.getElem?_drop, Nat.add_zero, List.getElem?_eq_getElem hk, List.getD_eq_getElem _ _ hk]

end State.Passes

/-- One cycle in which the engine requests nothing. -/
theorem State.Regular.passes_one {s : State} (hreg : s.Regular 1) (hreq : s.regs.RequestsNothing) :
    ∃ t, s.Passes 1 s.regs.txq t ∧ t.regs.engine = (engineNxt s.regs s.regs).engine := by
  obtain ⟨m, hm⟩ := hreg.exists_move
  have hpass := State.Passes.of_move hm hreq.delivers hreq.timesOut
  rw [Regs.txqTaken, hreq.takesJob, if_neg Bool.false_ne_true] at hpass
  exact ⟨_, hpass, hm.engine_eq⟩

/-- A machine that is regular for `n` cycles is so for fewer. -/
theorem State.Regular.mono {k n : Nat} {s : State} (h : s.Regular n) (hk : k ≤ n) : s.Regular k := by
  induction k generalizing s n with
  | zero => trivial
  | succ k ih =>
    obtain ⟨n, rfl⟩ := Nat.exists_eq_add_of_lt hk
    obtain ⟨hrun, hmove, hnext⟩ := h
    exact ⟨hrun, hmove, fun t ht => ih (hnext t ht) (Nat.le_add_right k n)⟩

/-! ### The phases of a job -/

/-- IDLE takes a whole job and leaves the words behind it (R221). -/
theorem passes_load {s : State} {b p : Word} {rest : List Word} (hen : s.regs.ctrlEn = true) (hst : s.regs.st = .idle)
    (htxq : s.regs.txq = b :: p :: rest) (hreg : s.Regular 1) :
    ∃ t, s.Passes 1 rest t ∧ t.regs.engine = (engineNxt s.regs s.regs).engine := by
  obtain ⟨m, hm⟩ := hreg.exists_move
  have hpass := State.Passes.of_move hm (by simp [Regs.delivers, hst]) (by simp [Regs.timesOut, hst])
  have htaken : s.regs.txqTaken = rest := by simp [Regs.txqTaken, Regs.takesJob, hen, hst, htxq]
  rw [htaken] at hpass
  exact ⟨_, hpass, hm.engine_eq⟩

/-- WAIT polls a line that stays high, within the budget, and counts it down (R206). -/
theorem passes_poll (n : Nat) {s : State} {stream : List Bool} (hen : s.regs.ctrlEn = true) (hst : s.regs.st = .wait)
    (hbudget : n ≤ s.regs.wcnt.toNat) (hs : s.Shows stream) (hhigh : ∀ j, j < n → stream[j]? = some true)
    (hreg : s.Regular n) :
    ∃ t left, s.Passes n s.regs.txq t ∧ t.regs.engine = { s.regs.engine with wcnt := left } ∧
      left.toNat = s.regs.wcnt.toNat - n := by
  induction n generalizing s stream with
  | zero => exact ⟨s, s.regs.wcnt, .refl s, rfl, rfl⟩
  | succ n ih =>
    have hline : s.regs.sync2 = true := hs.sync2_of_getElem? (hhigh 0 n.succ_pos)
    have hcnt : s.regs.wcnt ≠ 0#32 := fun h => by simp [h] at hbudget
    have hone : (s.regs.wcnt - 1#32).toNat = s.regs.wcnt.toNat - 1 := by bv_omega
    have hwait : s.regs.RequestsNothing := Regs.requestsNothing_of_wait hst (by simp [Regs.timesOut, hcnt])
    obtain ⟨t, hpass, heng⟩ := (hreg.mono n.succ_pos).passes_one hwait
    rw [engine_wait_counts hen hst hline hcnt] at heng
    have hwcnt : t.regs.wcnt = s.regs.wcnt - 1#32 := congrArg Engine.wcnt heng
    obtain ⟨u, left, hpass', heng', hleft⟩ := ih (hpass.enabled hen) ((congrArg Engine.st heng).trans hst)
      (by rw [hwcnt, hone]; omega) (hpass.shows _ hs)
      (fun j hj => by rw [List.getElem?_drop]; exact hhigh _ (by omega)) (hpass.regular n (by rwa [Nat.add_comm]))
    refine ⟨u, left, Nat.add_comm n 1 ▸ hpass.trans hpass', ?_, ?_⟩
    · rw [heng', heng]
    · rw [hleft, hwcnt, hone]
      omega

/-- After `n` polls of a high line, within the budget, a low line starts the train (R206). -/
theorem passes_ready (n : Nat) {s : State} {stream : List Bool} (hen : s.regs.ctrlEn = true) (hst : s.regs.st = .wait)
    (hbudget : n ≤ s.regs.wcnt.toNat) (hs : s.Shows stream) (hhigh : ∀ j, j < n → stream[j]? = some true)
    (hlow : stream[n]? = some false) (hreg : s.Regular (n + 1)) :
    ∃ t left, s.Passes (n + 1) s.regs.txq t ∧
      t.regs.engine = { s.regs.engine with wcnt := left, st := .high, sckEng := true, tcnt := s.regs.tHi } := by
  obtain ⟨t, left, hpass, heng, -⟩ := passes_poll n hen hst hbudget hs hhigh (hreg.mono n.le_succ)
  have hline : t.regs.sync2 = false :=
    (hpass.shows _ hs).sync2_of_getElem? (by rw [List.getElem?_drop, Nat.add_zero, hlow])
  have hst' : t.regs.st = .wait := (congrArg Engine.st heng).trans hst
  obtain ⟨-, hhi, -⟩ := hpass.setup
  have hwait : t.regs.RequestsNothing := Regs.requestsNothing_of_wait hst' (by simp [Regs.timesOut, hline])
  obtain ⟨u, hpass', heng'⟩ := (hpass.regular 1 hreg).passes_one hwait
  rw [engine_wait_low (hpass.enabled hen) hst' hline, heng, hhi] at heng'
  exact ⟨u, left, hpass.trans hpass', heng'⟩

/-- A half-period runs down in `tcnt` cycles (R223, R224). -/
theorem passes_half (n : Nat) {s : State} (hen : s.regs.ctrlEn = true) (hst : s.regs.st = .high ∨ s.regs.st = .low)
    (hcnt : s.regs.tcnt.toNat = n) (hreg : s.Regular n) :
    ∃ t, s.Passes n s.regs.txq t ∧ t.regs.engine = { s.regs.engine with tcnt := 0#8 } := by
  induction n generalizing s with
  | zero =>
    have hzero : s.regs.tcnt = 0#8 := BitVec.eq_of_toNat_eq hcnt
    exact ⟨s, .refl s, by rw [← hzero]; rfl⟩
  | succ n ih =>
    have hne : s.regs.tcnt ≠ 0#8 := fun h => by simp [h] at hcnt
    obtain ⟨t, hpass, heng⟩ := (hreg.mono n.succ_pos).passes_one (Regs.requestsNothing_of_pulse hst)
    rw [engine_half_counts hen hst hne] at heng
    have hst' : t.regs.st = s.regs.st := congrArg Engine.st heng
    have hcnt' : t.regs.tcnt = s.regs.tcnt - 1#8 := congrArg Engine.tcnt heng
    obtain ⟨u, hpass', heng'⟩ := ih (hpass.enabled hen) (by rwa [hst']) (by rw [hcnt']; bv_omega)
      (hpass.regular n (by rwa [Nat.add_comm]))
    exact ⟨u, Nat.add_comm n 1 ▸ hpass.trans hpass', by rw [heng', heng]⟩

/-- A pulse up to its last cycle, in which the sample is taken (R223, R225). -/
theorem passes_to_sample {s : State} (hen : s.regs.ctrlEn = true) (hst : s.regs.st = .high)
    (hcnt : s.regs.tcnt = s.regs.tHi) (hreg : s.Regular (s.regs.highCycles + s.regs.tLo.toNat)) :
    ∃ t, s.Passes (s.regs.highCycles + s.regs.tLo.toNat) s.regs.txq t ∧
      t.regs.engine = { s.regs.engine with st := .low, sckEng := false, tcnt := 0#8 } := by
  unfold Regs.highCycles at hreg ⊢
  obtain ⟨t, hpass, heng⟩ := passes_half _ hen (.inl hst) (congrArg _ hcnt) (hreg.mono (by omega))
  have hst' : t.regs.st = .high := (congrArg Engine.st heng).trans hst
  obtain ⟨-, -, hlo⟩ := hpass.setup
  have hreg' := hpass.regular (1 + s.regs.tLo.toNat) (by rwa [← Nat.add_assoc])
  obtain ⟨u, hpass', heng'⟩ :=
    (hreg'.mono (Nat.le_add_right 1 _)).passes_one (Regs.requestsNothing_of_pulse (.inl hst'))
  rw [engine_high_ends (hpass.enabled hen) hst' (congrArg Engine.tcnt heng), heng, hlo] at heng'
  obtain ⟨v, hpass'', heng''⟩ := passes_half s.regs.tLo.toNat (hpass'.enabled (hpass.enabled hen))
    (.inr (congrArg Engine.st heng')) (congrArg (fun e => e.tcnt.toNat) heng') (hpass'.regular _ hreg')
  exact ⟨v, (hpass.trans hpass').trans hpass'', by rw [heng'', heng']⟩

/-- One pulse shifts in the synchronised data line of its last cycle, and ends the train or starts the next pulse
(R224, R225). -/
theorem passes_pulse {s : State} {stream : List Bool} (hen : s.regs.ctrlEn = true) (hst : s.regs.st = .high)
    (hcnt : s.regs.tcnt = s.regs.tHi) (hs : s.Shows stream) (hlen : s.regs.pulseCycles ≤ stream.length)
    (hreg : s.Regular s.regs.pulseCycles) :
    ∃ t, s.Passes s.regs.pulseCycles s.regs.txq t ∧
      t.regs.engine =
        let acc := shiftIn s.regs.acc (stream.getD (s.regs.pulseCycles - 1) false)
        if s.regs.pcnt = 0#32 then { s.regs.engine with acc, st := .push, sckEng := false, tcnt := 0#8 }
        else
          { s.regs.engine with
            acc, pcnt := s.regs.pcnt - 1#32, st := .high, sckEng := true, tcnt := s.regs.tHi } := by
  have hcycles : s.regs.pulseCycles = s.regs.highCycles + s.regs.tLo.toNat + 1 := rfl
  rw [hcycles] at hreg hlen ⊢
  obtain ⟨t, hpass, heng⟩ := passes_to_sample hen hst hcnt (hreg.mono (Nat.le_succ _))
  obtain ⟨-, hhi, -⟩ := hpass.setup
  have hst' : t.regs.st = .low := congrArg Engine.st heng
  have hcnt' : t.regs.tcnt = 0#8 := congrArg Engine.tcnt heng
  have hacc : t.regs.acc = s.regs.acc := congrArg Engine.acc heng
  have hp : t.regs.pcnt = s.regs.pcnt := congrArg Engine.pcnt heng
  obtain ⟨u, hpass', heng'⟩ := (hpass.regular 1 hreg).passes_one (Regs.requestsNothing_of_pulse (.inr hst'))
  refine ⟨u, hpass.trans hpass', ?_⟩
  rw [Nat.add_sub_cancel, ← hpass.sync2_eq hs hlen, heng']
  split
  case isTrue hzero => rw [engine_low_ends_train (hpass.enabled hen) hst' hcnt' (hp.trans hzero), heng, hacc]
  case isFalse hne => rw [engine_low_next_pulse (hpass.enabled hen) hst' hcnt' (hp ▸ hne), heng, hacc, hp, hhi]

/-- The first pulse's sample, then those of the pulses behind it. -/
theorem sampled_succ (stream : List Bool) {period : Nat} (hpos : 0 < period) (n : Nat) :
    sampled stream period (n + 1) = stream.getD (period - 1) false :: sampled (stream.drop period) period n := by
  have hnext : ∀ k, period + ((k + 1) * period - 1) = (k + 1 + 1) * period - 1 := fun k => by
    have hfirst : period ≤ (k + 1) * period := Nat.le_mul_of_pos_left period k.succ_pos
    rw [Nat.succ_mul (k + 1)]
    omega
  simp only [sampled, List.range_succ_eq_map, List.map_cons, List.map_map, Nat.zero_add, Nat.one_mul,
    List.getD_eq_getElem?_getD, List.getElem?_drop, hnext]
  rfl

theorem Regs.pulseCycles_pos (r : Regs) : 0 < r.pulseCycles := Nat.succ_pos _

/-- The pulse's length is fixed by the half-periods, which no passed cycle changes (R231). -/
theorem State.Passes.pulseCycles_eq {k : Nat} {queue : List Word} {s t : State} (h : Passes k queue s t) :
    t.regs.pulseCycles = s.regs.pulseCycles := by
  obtain ⟨-, hhi, hlo⟩ := h.setup
  rw [Regs.pulseCycles, Regs.highCycles, Regs.lowCycles, hhi, hlo]
  rfl

/-- A train of `n + 1` pulses, the first just begun, ends in PUSH with one more sample per pulse in the accumulator
(R225 to R227). -/
theorem passes_train (n : Nat) {s : State} {stream : List Bool} (hen : s.regs.ctrlEn = true) (hst : s.regs.st = .high)
    (hcnt : s.regs.tcnt = s.regs.tHi) (hp : s.regs.pcnt.toNat = n) (hs : s.Shows stream)
    (hlen : (n + 1) * s.regs.pulseCycles ≤ stream.length) (hreg : s.Regular ((n + 1) * s.regs.pulseCycles)) :
    ∃ t, s.Passes ((n + 1) * s.regs.pulseCycles) s.regs.txq t ∧
      t.regs.engine = { s.regs.engine with
        acc := accumulate s.regs.acc (sampled stream s.regs.pulseCycles (n + 1))
        pcnt := 0#32, st := .push, sckEng := false, tcnt := 0#8 } := by
  induction n generalizing s stream with
  | zero =>
    have hzero : s.regs.pcnt = 0#32 := BitVec.eq_of_toNat_eq hp
    rw [Nat.zero_add, Nat.one_mul] at hlen hreg ⊢
    obtain ⟨t, hpass, heng⟩ := passes_pulse hen hst hcnt hs hlen hreg
    rw [if_pos hzero] at heng
    refine ⟨t, hpass, ?_⟩
    rw [heng, sampled_succ stream s.regs.pulseCycles_pos, ← hzero]
    rfl
  | succ n ih =>
    have hne : s.regs.pcnt ≠ 0#32 := fun h => by simp [h] at hp
    rw [Nat.succ_mul, Nat.add_comm] at hlen hreg ⊢
    obtain ⟨t, hpass, heng⟩ := passes_pulse hen hst hcnt hs (by omega) (hreg.mono (Nat.le_add_right _ _))
    rw [if_neg hne] at heng
    obtain ⟨-, hhi, -⟩ := hpass.setup
    have hp' : t.regs.pcnt = s.regs.pcnt - 1#32 := congrArg Engine.pcnt heng
    have hacc : t.regs.acc = shiftIn s.regs.acc (stream.getD (s.regs.pulseCycles - 1) false) := congrArg Engine.acc heng
    have hperiod := hpass.pulseCycles_eq
    obtain ⟨u, hpass', heng'⟩ := ih (stream := stream.drop s.regs.pulseCycles) (hpass.enabled hen)
      (congrArg Engine.st heng) ((congrArg Engine.tcnt heng).trans hhi.symm) (by rw [hp']; bv_omega) (hpass.shows _ hs)
      (by rw [hperiod, List.length_drop]; omega) (by rw [hperiod]; exact hpass.regular _ hreg)
    rw [hperiod] at hpass' heng'
    refine ⟨u, hpass.trans hpass', ?_⟩
    rw [heng', heng, hacc, sampled_succ stream s.regs.pulseCycles_pos]
    rfl

/-- PUSH delivers the accumulator as the last result word where the FIFO has room, and holds it where it has none
(R228). -/
theorem push_delivers_or_holds {s : State} (hen : s.regs.ctrlEn = true) (hst : s.regs.st = .push) (hreg : s.Regular 1) :
    ∃ t, step s = .next t ∧
      (s.regs.rxq.length < 4 → t.regs.st = .idle ∧ t.regs.rxq.getLast? = some s.regs.acc) ∧
      (4 ≤ s.regs.rxq.length → t.regs.st = .push ∧ t.regs.acc = s.regs.acc) ∧
      (s.Quiet → t.regs.txq = s.regs.txq ∧ t.regs.toFlag = s.regs.toFlag ∧
        (s.regs.rxq.length < 4 → t.regs.rxq = s.regs.rxq ++ [s.regs.acc])) := by
  obtain ⟨m, hm⟩ := hreg.exists_move
  have heng := hm.engine_eq
  have hdel : s.regs.rxq.length < 4 → s.regs.delivers = some s.regs.acc := fun hroom => by
    simp [Regs.delivers, hen, hst, hroom]
  refine ⟨_, hm.step_eq, fun hroom => ⟨?idle, hm.getLast?_rxq (hdel hroom)⟩, fun hfull => ?holds, fun hq => ?quiet⟩
  case idle =>
    rw [engine_push_delivers hen hst hroom] at heng
    exact congrArg Engine.st heng
  case holds =>
    rw [engine_push_holds hen hst hfull] at heng
    exact ⟨(congrArg Engine.st heng).trans hst, congrArg Engine.acc heng⟩
  case quiet =>
    obtain ⟨htx, hrx, hto⟩ := hm.quiet_regs hq
    refine ⟨htx.trans ?_, hto.trans ?_, fun hroom => ?_⟩
    · simp [Regs.txqTaken, Regs.takesJob, hst]
    · simp [Regs.timesOut, hst]
    · rw [hrx, hdel hroom]
      rfl

end Sys2Proof.Machine
end

section
/-! Data-ready detection (42_ready_detect.md): the synchroniser, the ready detector beside the engine, the engine's own
ready poll with its two ends, and the host's software ready wait. A job with a ready poll is put together from the
phases of the engine's runs; an item of the host that presents nothing leaves the host that `HostAgent.internal`
tells. -/

namespace Sys2Proof.Machine

/-! ### What the rows propose -/

/-- Settles O14: the three branches of the poll. -/
theorem waitPollsLevel : Obligations.WaitPollsLevel := by
  refine fun s => ⟨fun hlow => ?low, fun hhigh hzero => ?timeout, fun hhigh hne => ?counts⟩ <;>
    rw [exec, execEngWait]
  case low => exact if_pos hlow
  case timeout =>
    rw [hhigh, if_neg nofun, if_pos hzero]
    rfl
  case counts =>
    rw [hhigh, if_neg nofun, if_neg hne]
    rfl

/-- Settles O18: the meanings of the three units are the listed updates. -/
theorem unitsPropose : Obligations.UnitsPropose := fun _ => ⟨rfl, rfl, rfl⟩

/-! ### The synchroniser (R200) -/

theorem step_synchroniser {s t : State} (hrun : s.Running) (hstep : step s = .next t) :
    t.regs.sync1 = t.inp.pin ∧ t.regs.sync2 = s.regs.sync1 := by
  obtain ⟨m, -, rfl⟩ := step_next hstep
  rw [cycleResult_regs_running s m hrun, cycleResult_inp, inputsOf_pin]
  exact ⟨nextRegs_sync1 _ _ _, nextRegs_sync2 _ _ _⟩

/-- Settles O31: two cycles of the synchroniser, one after the other. -/
theorem synchroniserShifts : Obligations.SynchroniserShifts := by
  intro s t hrun hstep
  obtain ⟨hsync1, hsync2⟩ := step_synchroniser hrun hstep
  refine ⟨hsync1, hsync2, fun u hrun' hstep' => ?_⟩
  rw [(step_synchroniser hrun' hstep').2, hsync1]

/-! ### The detector beside the engine (R204) -/

/-- `r` with other values in the three bits of the detector (R43). -/
def Regs.withDetector (r : Regs) (arm flag prev : Bool) : Regs :=
  { r with rduArm := arm, rduFlag := flag, rduPrev := prev }

section
variable (r nxt : Regs) (m : Move) (pin arm flag prev : Bool)

theorem engineNxt_withDetector :
    engineNxt r (nxt.withDetector arm flag prev) = (engineNxt r nxt).withDetector arm flag prev := by
  unfold engineNxt
  (repeat' split) <;> rfl

theorem moveNxt_withDetector :
    moveNxt (nxt.withDetector arm flag prev) m = (moveNxt nxt m).withDetector arm flag prev := by
  unfold moveNxt
  (repeat' split) <;> rfl

/-- The engine and the host read none of the detector's bits, and no other proposal depends on them. -/
theorem proposedRegs_withDetector :
    proposedRegs (r.withDetector arm flag prev) m pin = (proposedRegs r m pin).withDetector arm flag r.sync2 := by
  have hengine :=
    engineNxt_withDetector r { r with sync1 := pin, sync2 := r.sync1, rduPrev := r.sync2 } arm flag r.sync2
  unfold proposedRegs
  rw [apply_ite (Regs.withDetector · arm flag r.sync2), ← moveNxt_withDetector, ← hengine]
  rfl

/-- The capture stands beside the engine's and the host's requests (R202). -/
theorem proposedReq_eq_setCapture : proposedReq r m =
    { (if moveAck r m then moveReq (engineReq r Requests.empty) m else engineReq r Requests.empty) with
      capture := r.captured } := by
  rw [proposedReq, engineReq_setCapture]
  split
  · exact moveReq_setCapture _ _ _
  · rfl

/-- The detector's bits reach the requests of a cycle in the capture alone. -/
theorem proposedReq_withDetector : proposedReq (r.withDetector arm flag prev) m =
    { proposedReq r m with capture := (r.withDetector arm flag prev).captured } := by
  rw [proposedReq_eq_setCapture, proposedReq_eq_setCapture r]
  rfl

/-- The combination reads the detector's bits for the detector alone (R148). -/
theorem nextRegs_withDetector : nextRegs (r.withDetector arm flag prev) m pin =
    (nextRegs r m pin).withDetector (nextRegs (r.withDetector arm flag prev) m pin).rduArm
      (nextRegs (r.withDetector arm flag prev) m pin).rduFlag r.sync2 := by
  rw [nextRegs, proposedRegs_withDetector, proposedReq_withDetector]
  rfl

end

/-- The detector's bits of the next cycle depend on no element of the engine and on no control bit (R148, R204). -/
theorem nextRegs_detector_congr {r r' : Regs} (harm : r.rduArm = r'.rduArm) (hflag : r.rduFlag = r'.rduFlag)
    (hprev : r.rduPrev = r'.rduPrev) (hsync2 : r.sync2 = r'.sync2) (hrxq : r.rxq = r'.rxq) (m : Move) (pin : Bool) :
    (nextRegs r m pin).rduArm = (nextRegs r' m pin).rduArm ∧ (nextRegs r m pin).rduFlag = (nextRegs r' m pin).rduFlag ∧
      (nextRegs r m pin).rduPrev = (nextRegs r' m pin).rduPrev := by
  have hack : moveAck r m = moveAck r' m := by cases m <;> simp only [moveAck, hrxq]
  have hreq : hostReq r m = hostReq r' m := by rw [hostReq, hack, hostReq]
  have hcapture : r.captured = r'.captured := by
    rw [Regs.captured, Regs.fall, harm, hprev, hsync2, Regs.captured, Regs.fall]
  refine ⟨?arm, ?flag, ?prev⟩
  case arm => rw [nextRegs_rduArm_eq, nextRegs_rduArm_eq, hreq, hcapture, harm]
  case flag => rw [nextRegs_rduFlag_eq, nextRegs_rduFlag_eq, hreq, hcapture, hflag]
  case prev => rw [nextRegs_rduPrev, nextRegs_rduPrev, hsync2]

/-- Two machines that differ in the registers alone make the same move in the same inputs. -/
theorem steps_from_two_registers {s t u : State} {r : Regs} (ht : step s = .next t)
    (hu : step { s with regs := r } = .next u) :
    (t.regs = Regs.reset ∧ u.regs = Regs.reset) ∨
      ∃ m pin, t.regs = nextRegs s.regs m pin ∧ u.regs = nextRegs r m pin := by
  obtain ⟨m, hm, rfl⟩ := step_next ht
  obtain rfl : u = cycleResult { s with regs := r } m := eq_cycleResult (s := { s with regs := r }) hm hu
  cases hrst : s.env.rstN with
  | false => exact .inl ⟨cycleResult_regs_reset _ _ hrst, cycleResult_regs_reset _ _ hrst⟩
  | true =>
    exact .inr ⟨m, s.env.pin s.cycle, cycleResult_regs_running _ _ hrst, cycleResult_regs_running _ _ hrst⟩

/-- Settles O39: in reset all elements agree, outside it by `nextRegs_withDetector` and `nextRegs_detector_congr`. -/
theorem detectorAndEngineIndependent : Obligations.DetectorAndEngineIndependent := by
  refine ⟨?engine, ?detector⟩
  case engine =>
    intro s t u arm flag prev ht hu
    rcases steps_from_two_registers ht hu with ⟨ht, hu⟩ | ⟨m, pin, ht, hu⟩
    · rw [ht, hu]
    · have hdet := hu.trans (nextRegs_withDetector s.regs m pin arm flag prev)
      rw [hdet, ht]
      rfl
  case detector =>
    intro s t u en wr sck eng st w p a c ht hu
    rcases steps_from_two_registers ht hu with ⟨ht, hu⟩ | ⟨m, pin, ht, hu⟩
    · rw [ht, hu]
      exact ⟨rfl, rfl, rfl⟩
    · rw [ht, hu]
      refine nextRegs_detector_congr ?_ ?_ ?_ ?_ ?_ m pin <;> rfl

/-! ### A disarmed detector (R202, R205) -/

/-- A move that is no ARM asks for none (R108, R148). -/
theorem MoveRequests.armCmd_eq_false {r : Regs} {m : Move} {q : Requests} (hq : MoveRequests r m q)
    (h : ∀ v, m = .present 0xB#4 v → v.getLsbD 0 = false ∨ v.getLsbD 1 = true) : q.armCmd = false := by
  cases hq with
  | wrRdy v =>
    change (v.getLsbD 0 && !v.getLsbD 1) = false
    rcases h v rfl with harm | hdisarm
    · rw [harm, Bool.false_and]
    · rw [hdisarm, Bool.not_true, Bool.and_false]
  | _ => rfl

/-- Settles O40: a reset cycle clears both bits; outside reset there is neither a capture nor an ARM. -/
theorem disarmedStaysDisarmed : Obligations.DisarmedStaysDisarmed := by
  intro s t m hm hstep harm hmove
  obtain rfl := eq_cycleResult hm hstep
  cases hrst : s.env.rstN with
  | false =>
    rw [cycleResult_regs_reset s m hrst]
    exact ⟨rfl, nofun⟩
  | true =>
    have hcapture : s.regs.captured = false := by rw [Regs.captured, harm, Bool.false_and]
    have hcmd := (moveRequests_hostReq s.regs m).armCmd_eq_false hmove
    rw [cycleResult_regs_running s m hrst, nextRegs_rduArm_eq, nextRegs_rduFlag_eq, hcmd, hcapture, harm]
    simp

/-! ### Jobs with the engine's own ready poll (R206, R207) -/

/-- A self-contained job begins in WAIT with the whole budget (R221). -/
theorem passes_load_waiting {s : State} {b p : Word} {rest : List Word} (hen : s.regs.ctrlEn = true)
    (hwait : s.regs.ctrlWaitrdy = true) (hst : s.regs.st = .idle) (htxq : s.regs.txq = b :: p :: rest)
    (hreg : s.Regular 1) :
    ∃ t, s.Passes 1 rest t ∧
      t.regs.engine = { s.regs.engine with wcnt := b, pcnt := p, acc := 0#32, st := .wait } := by
  obtain ⟨t, hpass, heng⟩ := passes_load hen hst htxq hreg
  exact ⟨t, hpass, heng.trans (engine_loads_waiting hen hst hwait htxq)⟩

/-- A self-contained job whose polls see the line high `n` times, within the budget, and then low: its train ends in
PUSH with the samples of its pulses. -/
theorem passes_selfContained (n : Nat) {s : State} {stream : List Bool} {b p : Word} {rest : List Word}
    (hen : s.regs.ctrlEn = true) (hwait : s.regs.ctrlWaitrdy = true) (hst : s.regs.st = .idle)
    (htxq : s.regs.txq = b :: p :: rest) (hs : s.Shows stream)
    (hlen : n + 2 + pulsesOf p * s.regs.pulseCycles ≤ stream.length) (hbudget : n ≤ b.toNat)
    (hhigh : ∀ j, j < n → stream[j + 1]? = some true) (hlow : stream[n + 1]? = some false)
    (hreg : s.Regular (n + 2 + pulsesOf p * s.regs.pulseCycles)) :
    ∃ t, s.Passes (n + 2 + pulsesOf p * s.regs.pulseCycles) rest t ∧ t.regs.st = .push ∧
      t.regs.acc = accumulate 0#32 (sampled (stream.drop (n + 2)) s.regs.pulseCycles (pulsesOf p)) := by
  obtain ⟨t, hload, heng⟩ := passes_load_waiting hen hwait hst htxq (hreg.mono (by omega))
  have hen1 : t.regs.ctrlEn = true := hload.enabled hen
  have hwcnt : t.regs.wcnt = b := congrArg Engine.wcnt heng
  obtain ⟨u, left, hready, heng'⟩ := passes_ready n (stream := stream.drop 1) hen1 (congrArg Engine.st heng)
    (hwcnt ▸ hbudget) (hload.shows _ hs) (fun j hj => by rw [List.getElem?_drop, Nat.add_comm, hhigh j hj])
    (by rw [List.getElem?_drop, Nat.add_comm, hlow]) (hload.regular _ (hreg.mono (by omega)))
  have hpass : s.Passes (n + 2) rest u := by
    have h := hload.trans hready
    rwa [Nat.add_comm] at h
  rw [heng] at heng'
  obtain ⟨-, hhi, -⟩ := hready.setup
  obtain ⟨v, htrain, heng''⟩ := passes_train p.toNat (hready.enabled hen1) (congrArg Engine.st heng')
    ((congrArg Engine.tcnt heng').trans hhi.symm) (congrArg (fun e => e.pcnt.toNat) heng') (hpass.shows _ hs)
    (by rw [hpass.pulseCycles_eq, List.length_drop]; exact Nat.le_sub_of_add_le' hlen)
    (by rw [hpass.pulseCycles_eq]; exact hpass.regular _ hreg)
  rw [hpass.pulseCycles_eq] at htrain heng''
  have hacc : u.regs.acc = 0#32 := congrArg Engine.acc heng'
  refine ⟨v, hpass.trans htrain, congrArg Engine.st heng'', ?_⟩
  rw [← hacc]
  exact congrArg Engine.acc heng''

/-- Settles O50: the load, the polls, the train, and PUSH. -/
theorem selfContainedJobDelivers : Obligations.SelfContainedJobDelivers := by
  intro s levels b p rest w hen hwait hst htxq hline hlen hw hbudget hhigh hlow word n hreg
  obtain ⟨polls, rfl⟩ := Nat.exists_eq_add_of_le' hw
  obtain ⟨u, hpass, hpush, hacc⟩ := passes_selfContained polls hen hwait hst htxq hline.shows
    (by simp only [List.length_cons]; omega) (by omega) (fun j hj => hhigh (j + 1) (by omega) (by omega)) hlow
    (hreg.mono (Nat.le_succ _))
  obtain ⟨t, hstep, hroom, hfull, hquiet⟩ :=
    push_delivers_or_holds (hpass.enabled hen) hpush (hpass.regular 1 hreg)
  rw [hacc] at hroom hfull hquiet
  refine ⟨u, t, hpass.run, hpush, hacc, hpass.kept, ?run, hroom, hfull, fun hq hspace => ?quiet⟩
  case run => exact (run_add hpass.run 1).trans (run_succ hstep 0)
  case quiet =>
    obtain ⟨hq', htx, hrx, hto⟩ := hpass.quiet hq
    obtain ⟨htx', hto', hpushed⟩ := hquiet hq'
    rw [hrx] at hroom hpushed
    exact ⟨(hroom hspace).1, htx'.trans htx, hto'.trans hto, hpushed hspace⟩

/-- A self-contained job on a line that stays high for `n` polls, within the budget, is in WAIT after them (R207). -/
theorem passes_load_and_poll (n : Nat) {s : State} {b p : Word} {rest : List Word} (hen : s.regs.ctrlEn = true)
    (hwait : s.regs.ctrlWaitrdy = true) (hst : s.regs.st = .idle) (htxq : s.regs.txq = b :: p :: rest)
    (hsync1 : s.regs.sync1 = true) (hline : s.Line (List.replicate b.toNat true)) (hbudget : n ≤ b.toNat)
    (hreg : s.Regular (n + 1)) :
    ∃ t, s.Passes (n + 1) rest t ∧ t.regs.st = .wait ∧ t.regs.wcnt.toNat = b.toNat - n ∧ t.regs.sync2 = true := by
  have hstream : ∀ j, j ≤ b.toNat → (List.replicate (b.toNat + 1) true)[j]? = some true := fun j hj =>
    List.getElem?_replicate_of_lt (Nat.lt_succ_of_le hj)
  have hs : s.Shows (s.regs.sync2 :: List.replicate (b.toNat + 1) true) := by
    have h := hline.shows
    rwa [hsync1] at h
  obtain ⟨t, hload, heng⟩ := passes_load_waiting hen hwait hst htxq (hreg.mono n.succ_pos)
  have hwcnt : t.regs.wcnt = b := congrArg Engine.wcnt heng
  obtain ⟨u, left, hpoll, heng', hleft⟩ := passes_poll n (hload.enabled hen) (congrArg Engine.st heng)
    (hwcnt ▸ hbudget) (hload.shows _ hs) (fun j hj => hstream j (by omega))
    (hload.regular n (by rwa [Nat.add_comm]))
  have hpass : s.Passes (n + 1) rest u := Nat.add_comm 1 n ▸ hload.trans hpoll
  have hleft' : u.regs.wcnt = left := congrArg Engine.wcnt heng'
  refine ⟨u, hpass, (congrArg Engine.st heng').trans (congrArg Engine.st heng), by rw [hleft', hleft, hwcnt], ?_⟩
  exact (hpass.shows _ hs).sync2_of_getElem? (by rw [List.getElem?_drop]; exact hstream n hbudget)

/-- The poll that sees the line high with the budget used up: the sentinel in PUSH, and the flag (R206, R302). -/
theorem wait_times_out {s : State} (hen : s.regs.ctrlEn = true) (hst : s.regs.st = .wait) (hcnt : s.regs.wcnt = 0#32)
    (hline : s.regs.sync2 = true) (hreg : s.Regular (1 + 1)) :
    ∃ t, step s = .next t ∧ t.Regular 1 ∧ t.regs.ctrlEn = true ∧ t.regs.st = .push ∧ t.regs.acc = 0xFFFFFFFF#32 ∧
      t.regs.toFlag = true ∧ (s.Quiet → t.Quiet ∧ t.regs.rxq = s.regs.rxq) := by
  obtain ⟨m, hm⟩ := hreg.exists_move
  have heng := hm.engine_eq
  rw [engine_wait_timeout hen hst hline hcnt] at heng
  have hto : s.regs.timesOut = true := by simp [Regs.timesOut, hen, hst, hline, hcnt]
  refine ⟨_, hm.step_eq, hm.regular hreg, hm.setup_eq.1.trans hen, congrArg Engine.st heng, congrArg Engine.acc heng,
    hm.toFlag_of_timesOut hto, fun hq => ⟨(hm.quiet hq).2, ?_⟩⟩
  obtain ⟨-, hrx, -⟩ := hm.quiet_regs hq
  simpa [Regs.delivers, hst] using hrx

/-- Settles O51: the polls of the whole budget, the timeout, and PUSH. -/
theorem timeoutCount : Obligations.TimeoutCount := by
  intro s b p rest hen hwait hst htxq hsync1 hline hreg
  have hpolls : ∀ n, n ≤ b.toNat → ∃ t, s.Passes (n + 1) rest t ∧ t.regs.st = .wait ∧
      t.regs.wcnt.toNat = b.toNat - n ∧ t.regs.sync2 = true := fun n hn =>
    passes_load_and_poll n hen hwait hst htxq hsync1 hline hn (hreg.mono (by omega))
  refine ⟨fun k hk hle => ?polls, ?timeout⟩
  case polls =>
    obtain ⟨n, rfl⟩ := Nat.exists_eq_add_of_le' hk
    obtain ⟨t, hpass, hwaits, hleft, -⟩ := hpolls n (by omega)
    refine ⟨t, hpass.run, hwaits, by omega, fun hq => ?_⟩
    obtain ⟨-, -, -, hto⟩ := hpass.quiet hq
    exact hto
  case timeout =>
    obtain ⟨t, hpass, hwaits, hleft, hhigh⟩ := hpolls b.toNat le_rfl
    have hzero : t.regs.wcnt = 0#32 := BitVec.eq_of_toNat_eq (by rw [hleft, Nat.sub_self]; rfl)
    obtain ⟨u, hstep, hreg', hen', hpush, hacc, hflag, hquiet⟩ :=
      wait_times_out (hpass.enabled hen) hwaits hzero hhigh (hpass.regular 2 hreg)
    obtain ⟨v, hstep', hroom, hfull, hquiet'⟩ := push_delivers_or_holds hen' hpush hreg'
    rw [hacc] at hroom hfull hquiet'
    refine ⟨u, v, ?run, hpush, hflag, hacc, ?run', hroom, hfull, fun hq => ?quiet⟩
    case run => exact (run_add hpass.run 1).trans (run_succ hstep 0)
    case run' => exact (run_add hpass.run 2).trans ((run_succ hstep 1).trans (run_succ hstep' 0))
    case quiet =>
      obtain ⟨hqt, -, hrx, -⟩ := hpass.quiet hq
      obtain ⟨hqu, hrx'⟩ := hquiet hqt
      obtain ⟨-, hto, hpushed⟩ := hquiet' hqu
      rw [hrx', hrx] at hroom hpushed
      exact ⟨hrx'.trans hrx, hto.trans hflag, fun hspace => ⟨(hroom hspace).1, hpushed hspace⟩⟩

/-! ### The software ready wait and the sentinel on the host (R209, R273) -/

/-- An item that presents nothing gives way by itself. -/
theorem HostAgent.advance_quiet {h : HostAgent} {op : HostOp} {rest : List HostOp} (hp : skipDone h.prog = op :: rest)
    (ack : Bool) (rdata : Word) : h.advance .quiet ack rdata = h.internal rest op := by
  rw [HostAgent.advance, hp]

/-- A step in which the host's next item presents nothing leaves the host as that item does (log 9). -/
theorem State.Next.step_internal {s : State} {op : HostOp} {rest : List HostOp} (h : s.Next op rest)
    (hquiet : op.move s.host = .ok .quiet) : ∃ t, step s = .next t ∧ t.host = s.host.internal rest op :=
  let t := cycleResult s .quiet
  ⟨t, step_of_move (h.move.trans hquiet), HostAgent.advance_quiet h t.out.ack t.out.rdata⟩

theorem dropCall_append_ret {call : List HostOp} (h : .ret ∉ call) (rest : List HostOp) :
    dropCall (call ++ .ret :: rest) = rest := by
  induction call with
  | nil => rfl
  | cons op call ih =>
    simp only [List.mem_cons, not_or] at h
    obtain ⟨hop, hcall⟩ := h
    rw [List.cons_append, dropCall]
    · exact ih hcall
    · exact fun heq => hop heq.symm

/-- A raise inside a call leaves what stands behind the call (R283; log 14). -/
theorem HostAgent.raise_in_call (h : HostAgent) {call : List HostOp} (hcall : .ret ∉ call) (rest : List HostOp) :
    h.raise (call ++ .ret :: rest) = { h with result := some .sensorTimeout, prog := rest } := by
  rw [HostAgent.raise, dropCall_append_ret hcall]

theorem isSentinel_iff {w : Word} : isSentinel w = true ↔ w = 0xFFFFFFFF#32 := decide_eq_true_iff

/-- Settles O60: the sentinel test and the raise, each inside a call. -/
theorem sentinelRaisesTimeout : Obligations.SentinelRaisesTimeout := by
  refine fun s call rest hcall => ⟨fun hnext => ?test, fun hnext => ?raise⟩ <;>
    obtain ⟨t, hstep, hhost⟩ := hnext.step_internal rfl <;>
    refine ⟨t, hstep, ?_⟩
  case test =>
    refine ⟨fun hword => ?_, fun hword => ?_⟩ <;> rw [hhost, HostAgent.internal]
    · rw [if_pos (isSentinel_iff.mpr hword), HostAgent.raise_in_call _ hcall]
    · rw [if_neg (mt isSentinel_iff.mp hword)]
  case raise => rw [hhost, HostAgent.internal, HostAgent.raise_in_call _ hcall]

/-- Settles O59: what follows the poll is `afterReadyPoll`. -/
theorem readyWaitPolls : Obligations.ReadyWaitPolls := by
  intro s left rest hnext
  obtain ⟨t, hstep, hhost⟩ := hnext.step_internal rfl
  refine ⟨t, hstep, ?_⟩
  rw [hhost]
  refine ⟨rfl, fun hflag => ?flag, fun hflag hleft => ?last, fun hflag hleft => ?again⟩ <;>
    rw [HostAgent.internal, bit, hflag]
  case flag => rfl
  case last => rw [hleft]; rfl
  case again =>
    cases left with
    | zero => exact absurd rfl hleft
    | succ left => rfl

/-- The test of the bit-bang loop (R279). -/
theorem HostAgent.internal_pulses {h : HostAgent} {gh gs : Nat} (hb : h.backend = .bitBang gh gs) (rest : List HostOp)
    (left : Nat) : h.internal rest (.pulses left) = { h with prog := bitBangPulses gh gs left ++ rest } := by
  simp only [HostAgent.internal, hb]

/-- Settles O58: each item that presents nothing, by what the host makes of it. -/
theorem readSequences : Obligations.ReadSequences := by
  refine ⟨fun s rest hnext => hnext.step_internal rfl, fun s rest hnext => ?body,
    fun s gh gs left rest hnext hb => ?pulses, fun s op rest hnext => ?items⟩
  case body =>
    obtain ⟨t, hstep, hhost⟩ := hnext.step_internal rfl
    refine ⟨t, hstep, ?_⟩
    rw [hhost]
    refine ⟨fun budget hb => ?_, fun hb => ?_, fun gh gs hb => ?_⟩ <;> rw [HostAgent.internal, hb] <;> rfl
  case pulses =>
    obtain ⟨t, hstep, hhost⟩ := hnext.step_internal rfl
    refine ⟨t, hstep, ?_⟩
    rw [hhost, HostAgent.internal_pulses hb]
    cases left <;> rfl
  case items =>
    refine ⟨?_, ?_, ?_, ?_, ?_, ?_, ?_, ?_⟩
    case refine_8 =>
      rintro n rfl
      exact hnext.step_internal rfl
    all_goals
      rintro rfl
      exact hnext.step_internal rfl

end Sys2Proof.Machine
end

section
/-! The pulse engine (43_clock_engine.md): what each of its rows proposes, the stop, the half-periods, and the pulse train
with its line and its samples. A half-period is counted down cycle by cycle (`passes_count`), and its last cycle leads on
(`passes_high`, `passes_low`); the line of a whole train is the line of one pulse, again in every pulse. -/

namespace Sys2Proof.Machine

/-! ### What the rows propose -/

/-- Settles O12: the meaning of the row is the update, whatever the code. -/
theorem stoppedEngineIdles : Obligations.StoppedEngineIdles := fun _ _ => rfl

/-- Settles O13: by the words in the job FIFO, and by WAITRDY where there are two. -/
theorem idleLoadsJob : Obligations.IdleLoadsJob := by
  refine fun s => ⟨fun b p rest htxq => ?job, fun hshort => ?short⟩
  case job =>
    simp only [exec, execEngIdle, htxq]
    cases s.regs.ctrlWaitrdy <;> rfl
  case short =>
    rw [exec, execEngIdle]
    split
    case h_1 htxq =>
      rw [htxq] at hshort
      exact absurd hshort (by simp)
    case h_2 => rfl

/-- Settles O15: by the count. -/
theorem highCountsDown : Obligations.HighCountsDown := by
  refine fun s => ⟨fun hcnt => ?counts, fun hzero => ?ends⟩ <;> rw [exec, execEngHigh]
  case counts => exact if_pos hcnt
  case ends => exact if_neg (not_not_intro hzero)

/-- Settles O16: by the count, and by the pulses to go where it is used up. -/
theorem lowSamplesOnce : Obligations.LowSamplesOnce := by
  refine fun s => ⟨fun hcnt => ?counts, fun hzero hlast => ?train, fun hzero hmore => ?pulse⟩ <;>
    rw [exec, execEngLow]
  case counts => exact if_pos hcnt
  case train => exact (if_neg (not_not_intro hzero)).trans (if_pos hlast)
  case pulse => exact (if_neg (not_not_intro hzero)).trans (if_neg hmore)

/-- Settles O17: by the room in the result FIFO, whose capacity is four words (R6). -/
theorem pushDeliversOrHolds : Obligations.PushDeliversOrHolds := by
  refine fun s => ⟨fun hroom => ?room, fun hfull => ?full⟩ <;> rw [exec, execEngPush]
  case room => exact if_pos hroom
  case full => exact if_neg (Nat.not_lt.mpr hfull)

/-! ### The engine beside the host (R144, R232) -/

/-- Settles O38: two hosts meet in the same inputs; in reset all elements agree, outside it the engine's are those of
`engineNxt` whatever the move. -/
theorem engineIgnoresTransactions : Obligations.EngineIgnoresTransactions := by
  intro s t u h ht hu
  obtain ⟨m, -, rfl⟩ := step_next ht
  obtain ⟨m', -, rfl⟩ := step_next hu
  cases hrst : s.env.rstN with
  | false =>
    rw [cycleResult_regs_reset s m hrst, cycleResult_regs_reset { s with host := h } m' hrst]
    simp only [and_self]
  | true =>
    rw [cycleResult_regs_running s m hrst, cycleResult_regs_running { s with host := h } m' hrst]
    simp only [nextRegs_st, nextRegs_wcnt, nextRegs_pcnt, nextRegs_acc, nextRegs_tcnt, nextRegs_sckEng, nextRegs_sync1,
      nextRegs_sync2, nextRegs_rduPrev, and_self]

/-! ### The stop (R220, R229) -/

theorem engine_stopped {r : Regs} (hen : r.ctrlEn = false) :
    (engineNxt r r).engine = { r.engine with st := .idle, sckEng := false } := by
  simp [engineNxt, Regs.engine, hen]

/-- A stopped engine takes no job, delivers no word and records no timeout, whatever its state. -/
theorem Regs.requestsNothing_of_stopped {r : Regs} (hen : r.ctrlEn = false) : r.RequestsNothing :=
  ⟨by simp [Regs.takesJob, hen], Regs.delivers_of_stopped hen, by simp [Regs.timesOut, hen]⟩

/-- Settles O41: the silent cycle of a stopped engine. -/
theorem stopAbortsJob : Obligations.StopAbortsJob := by
  intro s hrun hen
  obtain ⟨htakes, hdelivers, htimes⟩ := Regs.requestsNothing_of_stopped hen
  have heng := (nextRegs_engine s.regs .quiet (s.env.pin s.cycle)).trans (engine_stopped hen)
  refine ⟨_, silent_step s, ?_⟩
  rw [silent_regs s hrun]
  refine ⟨congrArg Engine.st heng, congrArg Engine.sckEng heng, ?rxq, ?txq, ?toFlag, congrArg Engine.wcnt heng,
    congrArg Engine.pcnt heng, congrArg Engine.acc heng, congrArg Engine.tcnt heng⟩
  case rxq => rw [nextRegs_rxq_quiet, hdelivers, Option.toList_none, List.append_nil]
  case txq => rw [nextRegs_txq_quiet, Regs.txqTaken, htakes, if_neg Bool.false_ne_true]
  case toFlag => rw [nextRegs_toFlag_quiet, htimes, Bool.false_or]

/-! ### The half-periods (R223, R224) -/

/-- HIGH and LOW count their half-period down, cycle by cycle, and change nothing else of the engine. -/
theorem passes_count (n : Nat) {s : State} (hen : s.regs.ctrlEn = true) (hst : s.regs.st = .high ∨ s.regs.st = .low)
    (hle : n ≤ s.regs.tcnt.toNat) (hreg : s.Regular n) :
    ∃ t left, s.Passes n s.regs.txq t ∧ t.regs.engine = { s.regs.engine with tcnt := left } ∧
      left.toNat = s.regs.tcnt.toNat - n := by
  induction n generalizing s with
  | zero => exact ⟨s, s.regs.tcnt, .refl s, rfl, rfl⟩
  | succ n ih =>
    have hne : s.regs.tcnt ≠ 0#8 := fun h => by simp [h] at hle
    have hone : (s.regs.tcnt - 1#8).toNat = s.regs.tcnt.toNat - 1 := by bv_omega
    obtain ⟨t, hpass, heng⟩ := (hreg.mono n.succ_pos).passes_one (Regs.requestsNothing_of_pulse hst)
    rw [engine_half_counts hen hst hne] at heng
    have hst' : t.regs.st = s.regs.st := congrArg Engine.st heng
    have hcnt : t.regs.tcnt = s.regs.tcnt - 1#8 := congrArg Engine.tcnt heng
    obtain ⟨u, left, hpass', heng', hleft⟩ := ih (hpass.enabled hen) (by rwa [hst']) (by rw [hcnt, hone]; omega)
      (hpass.regular n (by rwa [Nat.add_comm]))
    refine ⟨u, left, Nat.add_comm n 1 ▸ hpass.trans hpass', by rw [heng', heng], ?_⟩
    rw [hleft, hcnt, hone]
    omega

/-- The last cycle of HIGH drives the line low and loads the low half-period. -/
theorem passes_high {s : State} (hen : s.regs.ctrlEn = true) (hst : s.regs.st = .high)
    (hreg : s.Regular (s.regs.tcnt.toNat + 1)) :
    ∃ t, s.Passes (s.regs.tcnt.toNat + 1) s.regs.txq t ∧
      t.regs.engine = { s.regs.engine with st := .low, sckEng := false, tcnt := s.regs.tLo } := by
  obtain ⟨t, hpass, heng⟩ := passes_half _ hen (.inl hst) rfl (hreg.mono (Nat.le_succ _))
  have hst' : t.regs.st = .high := (congrArg Engine.st heng).trans hst
  obtain ⟨-, -, hlo⟩ := hpass.setup
  obtain ⟨u, hpass', heng'⟩ := (hpass.regular 1 hreg).passes_one (Regs.requestsNothing_of_pulse (.inl hst'))
  rw [engine_high_ends (hpass.enabled hen) hst' (congrArg Engine.tcnt heng), heng, hlo] at heng'
  exact ⟨u, hpass.trans hpass', heng'⟩

/-- The last cycle of LOW, begun in `t`, takes the sample and ends the train or starts the next pulse (R225). -/
theorem passes_low {s : State} (hen : s.regs.ctrlEn = true) (hst : s.regs.st = .low)
    (hreg : s.Regular (s.regs.tcnt.toNat + 1)) :
    ∃ t u, s.Passes s.regs.tcnt.toNat s.regs.txq t ∧ t.regs.engine = { s.regs.engine with tcnt := 0#8 } ∧
      s.Passes (s.regs.tcnt.toNat + 1) s.regs.txq u ∧
      u.regs.engine =
        let acc := shiftIn s.regs.acc t.regs.sync2
        if s.regs.pcnt = 0#32 then { s.regs.engine with acc, st := .push, tcnt := 0#8 }
        else
          { s.regs.engine with
            acc, pcnt := s.regs.pcnt - 1#32, st := .high, sckEng := true, tcnt := s.regs.tHi } := by
  obtain ⟨t, hpass, heng⟩ := passes_half _ hen (.inr hst) rfl (hreg.mono (Nat.le_succ _))
  have hst' : t.regs.st = .low := (congrArg Engine.st heng).trans hst
  have hcnt : t.regs.tcnt = 0#8 := congrArg Engine.tcnt heng
  have hacc : t.regs.acc = s.regs.acc := congrArg Engine.acc heng
  have hp : t.regs.pcnt = s.regs.pcnt := congrArg Engine.pcnt heng
  obtain ⟨-, hhi, -⟩ := hpass.setup
  obtain ⟨u, hpass', heng'⟩ := (hpass.regular 1 hreg).passes_one (Regs.requestsNothing_of_pulse (.inr hst'))
  refine ⟨t, u, hpass, heng, hpass.trans hpass', heng'.trans ?_⟩
  split
  case isTrue hzero => rw [engine_low_ends_train (hpass.enabled hen) hst' hcnt (hp.trans hzero), heng, hacc]
  case isFalse hne => rw [engine_low_next_pulse (hpass.enabled hen) hst' hcnt (hp ▸ hne), heng, hacc, hp, hhi]

/-- Settles O45: the count, and the last cycle of HIGH. -/
theorem highHalfPeriod : Obligations.HighHalfPeriod := by
  refine fun s hen hst hreg => ⟨fun k hk => ?counts, ?ends⟩
  case counts =>
    obtain ⟨t, left, hpass, heng, hleft⟩ := passes_count k hen (.inl hst) hk (hreg.mono (Nat.le_succ_of_le hk))
    have hcnt : t.regs.tcnt = left := congrArg Engine.tcnt heng
    exact ⟨t, hpass.run, (congrArg Engine.st heng).trans hst, hcnt ▸ hleft, congrArg Engine.sckEng heng⟩
  case ends =>
    obtain ⟨t, hpass, heng⟩ := passes_high hen hst hreg
    exact ⟨t, hpass.run, congrArg Engine.st heng, congrArg Engine.tcnt heng, congrArg Engine.sckEng heng⟩

/-- Settles O46: the count, and the last cycle of LOW by the pulses to go. -/
theorem lowHalfPeriod : Obligations.LowHalfPeriod := by
  refine fun s hen hst hreg => ⟨fun k hk => ?counts, ?ends⟩
  case counts =>
    obtain ⟨t, left, hpass, heng, hleft⟩ := passes_count k hen (.inr hst) hk (hreg.mono (Nat.le_succ_of_le hk))
    have hcnt : t.regs.tcnt = left := congrArg Engine.tcnt heng
    exact ⟨t, hpass.run, (congrArg Engine.st heng).trans hst, hcnt ▸ hleft, congrArg Engine.acc heng,
      congrArg Engine.sckEng heng⟩
  case ends =>
    obtain ⟨t, u, hpass, heng, hpass', heng'⟩ := passes_low hen hst hreg
    have hsck : t.regs.sckEng = s.regs.sckEng := congrArg Engine.sckEng heng
    refine ⟨t, u, hpass.run, (congrArg Engine.st heng).trans hst, congrArg Engine.acc heng, hpass'.run, ?sample,
      fun hzero => ?train, fun hne => ?pulse⟩
    case sample =>
      have hacc := congrArg Engine.acc heng'
      split at hacc <;> exact hacc
    case train =>
      rw [if_pos hzero] at heng'
      exact ⟨congrArg Engine.st heng', (congrArg Engine.sckEng heng').trans hsck.symm⟩
    case pulse =>
      rw [if_neg hne] at heng'
      exact ⟨congrArg Engine.st heng', congrArg Engine.sckEng heng', congrArg Engine.tcnt heng',
        congrArg Engine.pcnt heng'⟩

/-! ### The line of a train (R227, R231) -/

/-- The line in each cycle of one pulse. -/
theorem line_of_pulse {s : State} {j : Nat} (hen : s.regs.ctrlEn = true) (hst : s.regs.st = .high)
    (hcnt : s.regs.tcnt = s.regs.tHi) (hline : s.regs.sckEng = true) (hj : j < s.regs.pulseCycles)
    (hreg : s.Regular j) :
    ∃ t, core.run j s = .next t ∧ t.regs.sckPin = decide (j < s.regs.highCycles) := by
  have hhigh : s.regs.highCycles = s.regs.tcnt.toNat + 1 := by rw [hcnt]; rfl
  have hpin : ∀ {t : State}, s.Passes j s.regs.txq t → t.regs.sckPin = t.regs.sckEng := fun hpass =>
    if_pos (hpass.enabled hen)
  rcases Nat.lt_or_ge j s.regs.highCycles with hlt | hge
  · obtain ⟨t, left, hpass, heng, -⟩ := passes_count j hen (.inl hst) (by omega) hreg
    refine ⟨t, hpass.run, (hpin hpass).trans ?_⟩
    rw [decide_eq_true hlt]
    exact (congrArg Engine.sckEng heng).trans hline
  · obtain ⟨k, rfl⟩ := Nat.exists_eq_add_of_le hge
    have hk : k ≤ s.regs.tLo.toNat := Nat.le_of_lt_succ (Nat.lt_of_add_lt_add_left hj)
    obtain ⟨t, hpass, heng⟩ := passes_high hen hst (hhigh ▸ hreg.mono hge)
    rw [← hhigh] at hpass
    obtain ⟨u, left, hpass', heng', -⟩ := passes_count k (hpass.enabled hen) (.inr (congrArg Engine.st heng))
      ((congrArg (fun e => e.tcnt.toNat) heng).symm ▸ hk) (hpass.regular k hreg)
    refine ⟨u, (hpass.trans hpass').run, (hpin (hpass.trans hpass')).trans ?_⟩
    rw [decide_eq_false (Nat.not_lt.mpr hge)]
    exact (congrArg Engine.sckEng heng').trans (congrArg Engine.sckEng heng)

/-- A pulse that is not the last leads to the start of the next, whatever the data line shows. -/
theorem passes_to_next_pulse {s : State} (hen : s.regs.ctrlEn = true) (hst : s.regs.st = .high)
    (hcnt : s.regs.tcnt = s.regs.tHi) (hp : s.regs.pcnt ≠ 0#32) (hreg : s.Regular s.regs.pulseCycles) :
    ∃ t acc, s.Passes s.regs.pulseCycles s.regs.txq t ∧
      t.regs.engine = { s.regs.engine with
        acc, pcnt := s.regs.pcnt - 1#32, st := .high, sckEng := true, tcnt := s.regs.tHi } := by
  have hcycles : s.regs.pulseCycles = s.regs.tcnt.toNat + 1 + (s.regs.tLo.toNat + 1) := by rw [hcnt]; rfl
  rw [hcycles] at hreg ⊢
  obtain ⟨t, hpass, heng⟩ := passes_high hen hst (hreg.mono (Nat.le_add_right _ _))
  have hcnt' : t.regs.tcnt = s.regs.tLo := congrArg Engine.tcnt heng
  have hp' : t.regs.pcnt = s.regs.pcnt := congrArg Engine.pcnt heng
  obtain ⟨-, hhi, -⟩ := hpass.setup
  obtain ⟨_, u, -, -, hpass', heng'⟩ := passes_low (hpass.enabled hen) (congrArg Engine.st heng)
    (by rw [hcnt']; exact hpass.regular _ hreg)
  rw [hp', if_neg hp, heng, hhi] at heng'
  rw [hcnt'] at hpass'
  exact ⟨u, _, hpass.trans hpass', heng'⟩

/-- The line in each cycle of a train of `n + 1` pulses, the first just begun. -/
theorem line_of_train (n : Nat) {s : State} {j : Nat} (hen : s.regs.ctrlEn = true) (hst : s.regs.st = .high)
    (hcnt : s.regs.tcnt = s.regs.tHi) (hline : s.regs.sckEng = true) (hp : s.regs.pcnt.toNat = n)
    (hj : j < (n + 1) * s.regs.pulseCycles) (hreg : s.Regular j) :
    ∃ t, core.run j s = .next t ∧ t.regs.sckPin = decide (j % s.regs.pulseCycles < s.regs.highCycles) := by
  induction n generalizing s j with
  | zero =>
    rw [Nat.zero_add, Nat.one_mul] at hj
    rw [Nat.mod_eq_of_lt hj]
    exact line_of_pulse hen hst hcnt hline hj hreg
  | succ n ih =>
    rcases Nat.lt_or_ge j s.regs.pulseCycles with hlt | hge
    · rw [Nat.mod_eq_of_lt hlt]
      exact line_of_pulse hen hst hcnt hline hlt hreg
    · obtain ⟨k, rfl⟩ := Nat.exists_eq_add_of_le hge
      have hne : s.regs.pcnt ≠ 0#32 := fun h => by simp [h] at hp
      obtain ⟨t, acc, hpass, heng⟩ := passes_to_next_pulse hen hst hcnt hne (hreg.mono hge)
      obtain ⟨-, hhi, -⟩ := hpass.setup
      have hp' : t.regs.pcnt = s.regs.pcnt - 1#32 := congrArg Engine.pcnt heng
      have hhigh : t.regs.highCycles = s.regs.highCycles := by rw [Regs.highCycles, hhi, Regs.highCycles]
      have hk : k < (n + 1) * t.regs.pulseCycles := by
        rw [hpass.pulseCycles_eq]
        rw [Nat.succ_mul] at hj
        omega
      obtain ⟨u, hrun, hpin⟩ := ih (hpass.enabled hen) (congrArg Engine.st heng)
        ((congrArg Engine.tcnt heng).trans hhi.symm) (congrArg Engine.sckEng heng) (by rw [hp']; bv_omega) hk
        (hpass.regular k hreg)
      rw [hpass.pulseCycles_eq, hhigh] at hpin
      rw [Nat.add_mod_left]
      exact ⟨u, (run_add hpass.run k).trans hrun, hpin⟩

/-- Settles O47: the invariant has the line high at the start, and every pulse goes as the first. -/
theorem trainWaveform : Obligations.TrainWaveform := by
  intro s hinv hen hst hcnt j hj hreg
  obtain ⟨⟨-, -, hsck⟩, -⟩ := hinv
  exact line_of_train _ hen hst hcnt (hsck.trans (decide_eq_true hst)) rfl hj hreg

/-! ### The samples of a train and the word of a job (R225 to R228) -/

/-- Settles O48: the train passes with the scheduled levels behind the synchroniser's two stages. -/
theorem trainSamplesEachPulse : Obligations.TrainSamplesEachPulse := by
  intro s levels hen hst hcnt hline hlen hreg
  obtain ⟨t, hpass, heng⟩ := passes_train s.regs.pcnt.toNat hen hst hcnt rfl hline.shows hlen hreg
  refine ⟨t, hpass.run, congrArg Engine.st heng, congrArg Engine.sckEng heng, congrArg Engine.pcnt heng,
    fun hq => ?rxq, congrArg Engine.acc heng⟩
  obtain ⟨-, -, hrx, -⟩ := hpass.quiet hq
  exact hrx

theorem engine_loads_train {r : Regs} (hen : r.ctrlEn = true) (hst : r.st = .idle) (hwait : r.ctrlWaitrdy = false)
    {b p : Word} {rest : List Word} (htxq : r.txq = b :: p :: rest) :
    (engineNxt r r).engine =
      { r.engine with wcnt := b, pcnt := p, acc := 0#32, st := .high, sckEng := true, tcnt := r.tHi } := by
  simp [engineNxt, Regs.engine, hen, hst, hwait, htxq]

/-- A hybrid job begins its train in the cycle after its load (R221), and the train ends in PUSH with the samples of its
pulses. -/
theorem passes_hybrid {s : State} {levels : List Bool} {b p : Word} {rest : List Word} (hen : s.regs.ctrlEn = true)
    (hwait : s.regs.ctrlWaitrdy = false) (hst : s.regs.st = .idle) (htxq : s.regs.txq = b :: p :: rest)
    (hline : s.Line levels) (hlen : pulsesOf p * s.regs.pulseCycles ≤ levels.length + 1)
    (hreg : s.Regular (1 + pulsesOf p * s.regs.pulseCycles)) :
    ∃ t, s.Passes (1 + pulsesOf p * s.regs.pulseCycles) rest t ∧ t.regs.st = .push ∧
      t.regs.acc = accumulate 0#32 (sampled (s.regs.sync1 :: levels) s.regs.pulseCycles (pulsesOf p)) := by
  obtain ⟨t, hload, heng⟩ := passes_load hen hst htxq (hreg.mono (Nat.le_add_right 1 _))
  rw [engine_loads_train hen hst hwait htxq] at heng
  obtain ⟨-, hhi, -⟩ := hload.setup
  have hperiod := hload.pulseCycles_eq
  have hacc : t.regs.acc = 0#32 := congrArg Engine.acc heng
  obtain ⟨u, htrain, heng'⟩ := passes_train p.toNat (hload.enabled hen) (congrArg Engine.st heng)
    ((congrArg Engine.tcnt heng).trans hhi.symm) (congrArg (fun e => e.pcnt.toNat) heng) (hload.shows _ hline.shows)
    (by rw [hperiod]; exact hlen) (by rw [hperiod]; exact hload.regular _ hreg)
  rw [hperiod] at htrain heng'
  refine ⟨u, hload.trans htrain, congrArg Engine.st heng', ?_⟩
  rw [← hacc]
  exact congrArg Engine.acc heng'

/-- Settles O49: the load, the train, and PUSH. -/
theorem hybridJobDelivers : Obligations.HybridJobDelivers := by
  intro s levels b p rest hen hwait hst htxq hline hlen word n hreg
  obtain ⟨u, hpass, hpush, hacc⟩ := passes_hybrid hen hwait hst htxq hline hlen (hreg.mono (Nat.le_succ _))
  obtain ⟨t, hstep, hroom, hfull, hquiet⟩ :=
    push_delivers_or_holds (hpass.enabled hen) hpush (hpass.regular 1 hreg)
  rw [hacc] at hroom hfull hquiet
  refine ⟨u, t, hpass.run, hpush, hacc, hpass.kept, (run_add hpass.run 1).trans (run_succ hstep 0), hroom, hfull,
    fun hq hspace => ?quiet⟩
  obtain ⟨hq', htx, hrx, -⟩ := hpass.quiet hq
  obtain ⟨htx', -, hpushed⟩ := hquiet hq'
  rw [hrx] at hroom hpushed
  exact ⟨(hroom hspace).1, htx'.trans htx, hpushed hspace⟩

end Sys2Proof.Machine
end

section
/-! Result decoding (44_result_decode.md): `Decode` as the two's-complement reading of the 24 bits above the mode bits,
the place of a train's samples in its raw word, and the two calls that take a mode. -/

namespace Sys2Proof.Machine

/-! ### `Decode` (R274, R275) -/

/-- The 24 bits that `Decode` reads: those above the mode bits. -/
def decodedField (w : Word) (m : Mode) : BitVec 24 := (w >>> m.toNat).extractLsb' 0 24

/-- Subtracting `0x1000000` from the upper half of the values is the two's-complement reading. -/
theorem decodeResult_eq_toInt (w : Word) (m : Mode) : decodeResult w m = (decodedField w m).toInt := by
  rw [BitVec.toInt_eq_toNat_cond, decodedField, decodeResult]
  split <;> split <;> omega

theorem ushiftRight_toNat_le {w : Word} {n : Nat} (h : w.toNat < 2 ^ (24 + n)) : (w >>> n).toNat ≤ 0xFFFFFF := by
  rw [Nat.pow_add] at h
  rw [BitVec.toNat_ushiftRight, Nat.shiftRight_eq_div_pow]
  exact Nat.le_of_lt_succ (Nat.div_lt_of_lt_mul (Nat.mul_comm _ _ ▸ h))

/-- Settles O53: the two's-complement reading of the field has the range and the boundary values. -/
theorem decodeIsSignExtension : Obligations.DecodeIsSignExtension := by
  intro w m x
  have hint : decodeResult w m = x.toInt := decodeResult_eq_toInt w m
  refine ⟨rfl, hint, ?low, ?high, fun hx => ?max, fun hx => ?min, fun hx => ?minusOne, ushiftRight_toNat_le⟩ <;>
    rw [hint]
  case low => exact BitVec.le_toInt x
  case high => exact Int.le_of_lt_add_one (BitVec.toInt_lt (x := x))
  all_goals
    rw [hx]
    decide

/-! ### The samples in the raw word (R276) -/

/-- Later samples move every earlier one up by their number. -/
theorem getLsbD_accumulate_append (d e : List Bool) {k : Nat} (hk : e.length + k < 32) :
    (accumulate 0#32 (d ++ e)).getLsbD (e.length + k) = (accumulate 0#32 d).getLsbD k := by
  rw [getLsbD_accumulate _ _ hk, getLsbD_accumulate _ _ (by omega), List.reverse_append,
    List.getD_append_right _ _ _ _ (by simp), List.length_reverse, Nat.add_sub_cancel_left]

theorem Mode.toNat_le_three (m : Mode) : m.toNat ≤ 3 := by cases m <;> decide

/-- With one sample per mode bit behind `d`, the field that `Decode` reads is that of `d` alone (I9). -/
theorem decodedField_accumulate_append (m : Mode) (d : List Bool) {e : List Bool} (he : e.length = m.toNat) :
    decodedField (accumulate 0#32 (d ++ e)) m = (accumulate 0#32 d).extractLsb' 0 24 := by
  refine BitVec.eq_of_getLsbD_eq fun k hk => ?_
  have hm := m.toNat_le_three
  have hbit := getLsbD_accumulate_append d e (k := k) (by omega)
  rw [he] at hbit
  simp [decodedField, hbit]

/-- Settles O54: the mode's samples are shifted out. -/
theorem decodeReadsChipBits : Obligations.DecodeReadsChipBits := by
  intro m d e _ he
  rw [decodeResult_eq_toInt, decodedField_accumulate_append m d he]

/-! ### The calls that take a mode (R270, R271) -/

theorem Mode.ofInt_valid {m : Int} (h : m = 1 ∨ m = 2 ∨ m = 3) :
    ∃ mode, Mode.ofInt m = some mode ∧ (mode.toNat : Int) = m := by
  rcases h with rfl | rfl | rfl <;> exact ⟨_, rfl, rfl⟩

theorem Mode.ofInt_invalid {m : Int} (h : ¬ (m = 1 ∨ m = 2 ∨ m = 3)) : Mode.ofInt m = none := by
  simp only [not_or] at h
  obtain ⟨h1, h2, h3⟩ := h
  rw [Mode.ofInt, if_neg h1, if_neg h2, if_neg h3]

section
variable (h : HostAgent) (rest : List HostOp) {m : Int}

theorem HostAgent.internal_setMode_valid {mode : Mode} (hm : Mode.ofInt m = some mode) :
    h.internal rest (.setMode m) = { h with mode := mode, prog := warmUp ++ rest } := by
  simp only [HostAgent.internal, hm]

theorem HostAgent.internal_setMode_invalid (hm : Mode.ofInt m = none) :
    h.internal rest (.setMode m) = { h with prog := rest } := by
  simp only [HostAgent.internal, hm]

theorem HostAgent.internal_construct_valid {mode : Mode} (b : Backend) (hm : Mode.ofInt m = some mode) :
    h.internal rest (.construct b m) = { h with mode := mode, backend := b, prog := warmUp ++ rest } := by
  simp only [HostAgent.internal, hm]

/-- A construction is silent or refused, by its mode (R271). -/
theorem HostOp.move_construct_valid {mode : Mode} (b : Backend) (hm : Mode.ofInt m = some mode) :
    HostOp.move h (.construct b m) = .ok .quiet := by
  rw [HostOp.move, hm, if_neg nofun]

theorem HostOp.move_construct_invalid (b : Backend) (hm : Mode.ofInt m = none) :
    HostOp.move h (.construct b m) = .error .invalidInitialMode := by
  rw [HostOp.move, if_pos hm]

end

/-- A silent step completes no transaction. -/
theorem step_quiet_ack {s t : State} (hm : s.host.move = .ok .quiet) (hstep : step s = .next t) : t.out.ack = false := by
  rw [eq_cycleResult hm hstep, cycleResult_ack]
  exact Bool.and_false _

/-- Settles O56: the silent step of the call, by whether its mode is valid. -/
theorem setModeIgnoresInvalid : Obligations.SetModeIgnoresInvalid := by
  intro s m rest hnext
  obtain ⟨t, hstep, hhost⟩ := hnext.step_internal rfl
  refine ⟨t, hstep, step_quiet_ack hnext.move hstep, fun hvalid => ?valid, fun hinvalid => ?invalid⟩
  case valid =>
    obtain ⟨mode, hmode, hm⟩ := Mode.ofInt_valid hvalid
    rw [hhost, HostAgent.internal_setMode_valid _ _ hmode]
    exact ⟨hm, rfl⟩
  case invalid => rw [hhost, HostAgent.internal_setMode_invalid _ _ (Mode.ofInt_invalid hinvalid)]

/-- Settles O57: a valid construction is a silent step, an invalid one is refused. -/
theorem constructionChecksMode : Obligations.ConstructionChecksMode := by
  refine fun s b m rest hnext => ⟨fun hvalid => ?valid, fun hinvalid => ?invalid⟩
  case valid =>
    obtain ⟨mode, hmode, hm⟩ := Mode.ofInt_valid hvalid
    obtain ⟨t, hstep, hhost⟩ := hnext.step_internal (HostOp.move_construct_valid s.host b hmode)
    refine ⟨t, hstep, ?_⟩
    rw [hhost, HostAgent.internal_construct_valid _ _ b hmode]
    exact ⟨hm, rfl, rfl⟩
  case invalid =>
    exact step_of_refused (hnext.move.trans (HostOp.move_construct_invalid s.host b (Mode.ofInt_invalid hinvalid)))

end Sys2Proof.Machine
end
